-- ==== Sys2Proof/Word.lean ====
section
/-!
DEFINITION. The word types of CHIP8-CORE: the register byte, the 16-bit opcode/address word, the opcode fields of
rule R81, and the register index.
-/

namespace Sys2Proof

/-- A byte: a general register, a timer, a memory cell, the `NN` field (rules R20, R28, R29, R50, R81). -/
abbrev Byte := BitVec 8

/-- A 16-bit value: an opcode word, `pc`, `I`, a return address (rules R23, R24, R26, R80). -/
abbrev Word := BitVec 16

/-- A 4-bit opcode field: `h`, `N` (rule R81). -/
abbrev Nibble := BitVec 4

/-- The 12-bit address immediate `NNN` (rule R81). -/
abbrev Addr12 := BitVec 12

/-- The index of a general register, `V0` to `VF`; four bits wide, so never out of range (rules R20, R22). -/
abbrev Reg := Fin 16

/-- `VF`, the flag register (rule R21). -/
abbrev flagReg : Reg := 15

/-- The four opcode bits that name a register (rule R81). -/
abbrev regBits (x : Reg) : Nibble := BitVec.ofFin x

end Sys2Proof
end

