-- ==== Sys2Proof/Syntax.lean ====
section
/-!
DEFINITION. The instructions of CHIP8-CORE: one constructor per row of the opcode map (rule R84), operands as
decoded fields (rules R81, R82).
-/

namespace Sys2Proof

/-- The 35 patterns of rule R84, in the map's order within each major nibble. -/
inductive Instr where
  /-- 00E0, clear screen (rule R100). -/
  | cls
  /-- 00EE, return (rule R110). -/
  | ret
  /-- 0NNN other than 00E0 and 00EE (rule R118). -/
  | sys (nnn : Addr12)
  /-- 1NNN, jump (rule R111). -/
  | jp (nnn : Addr12)
  /-- 2NNN, call (rule R112). -/
  | call (nnn : Addr12)
  /-- 3XNN, skip if VX = NN (rule R113). -/
  | seImm (x : Reg) (nn : Byte)
  /-- 4XNN, skip if VX ≠ NN (rule R114). -/
  | sneImm (x : Reg) (nn : Byte)
  /-- 5XY0, skip if VX = VY (rule R115). -/
  | seReg (x y : Reg)
  /-- 6XNN, load immediate (rule R130). -/
  | ldImm (x : Reg) (nn : Byte)
  /-- 7XNN, add immediate (rule R131). -/
  | addImm (x : Reg) (nn : Byte)
  /-- 8XY0, assign (rule R142). -/
  | ldReg (x y : Reg)
  /-- 8XY1, OR (rule R143). -/
  | orReg (x y : Reg)
  /-- 8XY2, AND (rule R144). -/
  | andReg (x y : Reg)
  /-- 8XY3, XOR (rule R145). -/
  | xorReg (x y : Reg)
  /-- 8XY4, add with carry out (rule R146). -/
  | addReg (x y : Reg)
  /-- 8XY5, VX - VY (rule R147). -/
  | sub (x y : Reg)
  /-- 8XY6, shift right (rule R148). -/
  | shr (x y : Reg)
  /-- 8XY7, VY - VX (rule R149). -/
  | subn (x y : Reg)
  /-- 8XYE, shift left (rule R150). -/
  | shl (x y : Reg)
  /-- 9XY0, skip if VX ≠ VY (rule R116). -/
  | sneReg (x y : Reg)
  /-- ANNN, load I (rule R160). -/
  | ldI (nnn : Addr12)
  /-- BNNN, jump to NNN + V0 (rule R117). -/
  | jpV0 (nnn : Addr12)
  /-- CXNN, random and NN (rule R132). -/
  | rnd (x : Reg) (nn : Byte)
  /-- DXYN, draw sprite (rule R101). -/
  | drw (x y : Reg) (n : Nibble)
  /-- EX9E, skip if key VX pressed (rule R181). -/
  | skp (x : Reg)
  /-- EXA1, skip if key VX not pressed (rule R182). -/
  | sknp (x : Reg)
  /-- FX07, read the delay timer (rule R183). -/
  | ldVDt (x : Reg)
  /-- FX0A, wait for a key (rule R184). -/
  | ldVK (x : Reg)
  /-- FX15, set the delay timer (rule R186). -/
  | ldDtV (x : Reg)
  /-- FX18, set the sound timer (rule R187). -/
  | ldStV (x : Reg)
  /-- FX1E, add VX to I (rule R161). -/
  | addI (x : Reg)
  /-- FX29, glyph address of VX (rule R162). -/
  | ldF (x : Reg)
  /-- FX33, decimal digits of VX to memory (rule R163). -/
  | ldB (x : Reg)
  /-- FX55, register dump (rule R164). -/
  | ldMemV (x : Reg)
  /-- FX65, register load (rule R165). -/
  | ldVMem (x : Reg)
deriving DecidableEq, Repr

/-- The instruction's mnemonic, spelled as the opcode table spells it. -/
def Instr.mnemonic : Instr → String
  | .cls => "CLS"
  | .ret => "RET"
  | .sys _ => "SYS"
  | .jp _ => "JP"
  | .call _ => "CALL"
  | .seImm _ _ => "SE_IMM"
  | .sneImm _ _ => "SNE_IMM"
  | .seReg _ _ => "SE_REG"
  | .ldImm _ _ => "LD_IMM"
  | .addImm _ _ => "ADD_IMM"
  | .ldReg _ _ => "LD_REG"
  | .orReg _ _ => "OR"
  | .andReg _ _ => "AND"
  | .xorReg _ _ => "XOR"
  | .addReg _ _ => "ADD_REG"
  | .sub _ _ => "SUB"
  | .shr _ _ => "SHR"
  | .subn _ _ => "SUBN"
  | .shl _ _ => "SHL"
  | .sneReg _ _ => "SNE_REG"
  | .ldI _ => "LD_I"
  | .jpV0 _ => "JP_V0"
  | .rnd _ _ => "RND"
  | .drw _ _ _ => "DRW"
  | .skp _ => "SKP"
  | .sknp _ => "SKNP"
  | .ldVDt _ => "LD_V_DT"
  | .ldVK _ => "LD_V_K"
  | .ldDtV _ => "LD_DT_V"
  | .ldStV _ => "LD_ST_V"
  | .addI _ => "ADD_I"
  | .ldF _ => "LD_F"
  | .ldB _ => "LD_B"
  | .ldMemV _ => "LD_MEM_V"
  | .ldVMem _ => "LD_V_MEM"

end Sys2Proof
end

