-- ==== Sys2Proof/WellFormed.lean ====
section
/-!
DEFINITION. Which instruction terms a word of the hardware can stand for. The operand types already hold every field
to its width (rule R81); the one further condition is that SYS leaves out the two exact words 0x00E0 and 0x00EE
(rule R83, rule R118).
-/

namespace Sys2Proof

/-- SYS takes every 0NNN word but 00E0 (CLS) and 00EE (RET), which the decoder matches first (rules R83, R118). -/
abbrev sysOperandOk (nnn : Addr12) : Prop := nnn ≠ 0x0E0 ∧ nnn ≠ 0x0EE

/-- Well-formed instructions: those that some 16-bit word decodes to. -/
def Instr.wf : Instr → Bool
  | .sys nnn => decide (sysOperandOk nnn)
  | .cls | .ret | .jp _ | .call _ | .seImm _ _ | .sneImm _ _ | .seReg _ _ | .ldImm _ _ | .addImm _ _ => true
  | .ldReg _ _ | .orReg _ _ | .andReg _ _ | .xorReg _ _ | .addReg _ _ | .sub _ _ | .shr _ _ | .subn _ _ => true
  | .shl _ _ | .sneReg _ _ | .ldI _ | .jpV0 _ | .rnd _ _ | .drw _ _ _ | .skp _ | .sknp _ | .ldVDt _ => true
  | .ldVK _ | .ldDtV _ | .ldStV _ | .addI _ | .ldF _ | .ldB _ | .ldMemV _ | .ldVMem _ => true

end Sys2Proof
end

