-- ==== Sys2Proof/Decode.lean ====
section
/-!
DEFINITION. Decoding and encoding. The opcode fields (rule R81), the decoder of rule R83, total on every word; the
byte-level reader (rules R54, R80); the encoder, from the same patterns (rule R84); and the opcode table as rows of
mask and match, with its own first-match reading (rule R93).
-/

namespace Sys2Proof

/-- `h = op[15:12]` (rule R81). -/
def opH (op : Word) : Nibble := op.extractLsb' 12 4

/-- `X = op[11:8]` (rule R81). -/
def opX (op : Word) : Reg := (op.extractLsb' 8 4).toFin

/-- `Y = op[7:4]` (rule R81). -/
def opY (op : Word) : Reg := (op.extractLsb' 4 4).toFin

/-- `N = op[3:0]` (rule R81). -/
def opN (op : Word) : Nibble := op.extractLsb' 0 4

/-- `NN = op[7:0]` (rule R81). -/
def opNN (op : Word) : Byte := op.extractLsb' 0 8

/-- `NNN = op[11:0]` (rule R81). -/
def opNNN (op : Word) : Addr12 := op.extractLsb' 0 12

/-- What a 16-bit word decodes to: a row of the opcode map, or `UNRECOGNIZED` (rule R83). -/
inductive Decoded where
  | instr (i : Instr)
  /-- The word matches no pattern (rule R85). -/
  | unrecognized (op : Word)
deriving DecidableEq, Repr

/-- The minor opcodes of major opcode 8 (rules R83, R140). PRESUMED: the codes other than 4 and 5
(notes/assumptions/7). -/
def decodeAlu (op : Word) : Decoded :=
  match (opN op).toNat with
  | 0x0 => .instr (.ldReg (opX op) (opY op))
  | 0x1 => .instr (.orReg (opX op) (opY op))
  | 0x2 => .instr (.andReg (opX op) (opY op))
  | 0x3 => .instr (.xorReg (opX op) (opY op))
  | 0x4 => .instr (.addReg (opX op) (opY op))
  | 0x5 => .instr (.sub (opX op) (opY op))
  | 0x6 => .instr (.shr (opX op) (opY op))
  | 0x7 => .instr (.subn (opX op) (opY op))
  | 0xE => .instr (.shl (opX op) (opY op))
  | _   => .unrecognized op

/-- The low bytes of major opcode E (rule R83). -/
def decodeKey (op : Word) : Decoded :=
  match (opNN op).toNat with
  | 0x9E => .instr (.skp (opX op))
  | 0xA1 => .instr (.sknp (opX op))
  | _    => .unrecognized op

/-- The low bytes of major opcode F (rule R83). -/
def decodeMisc (op : Word) : Decoded :=
  match (opNN op).toNat with
  | 0x07 => .instr (.ldVDt (opX op))
  | 0x0A => .instr (.ldVK (opX op))
  | 0x15 => .instr (.ldDtV (opX op))
  | 0x18 => .instr (.ldStV (opX op))
  | 0x1E => .instr (.addI (opX op))
  | 0x29 => .instr (.ldF (opX op))
  | 0x33 => .instr (.ldB (opX op))
  | 0x55 => .instr (.ldMemV (opX op))
  | 0x65 => .instr (.ldVMem (opX op))
  | _    => .unrecognized op

/-- The major opcodes (rule R83), once the exact words are out of the way. A four-bit field has no value above 0xF,
so the last row is major opcode F. PRESUMED: majors 1 to 5 and 9 (notes/assumptions/7). -/
def decodeMajor (op : Word) : Decoded :=
  match (opH op).toNat with
  | 0x0 => .instr (.sys (opNNN op))
  | 0x1 => .instr (.jp (opNNN op))
  | 0x2 => .instr (.call (opNNN op))
  | 0x3 => .instr (.seImm (opX op) (opNN op))
  | 0x4 => .instr (.sneImm (opX op) (opNN op))
  | 0x5 => if opN op = 0 then .instr (.seReg (opX op) (opY op)) else .unrecognized op
  | 0x6 => .instr (.ldImm (opX op) (opNN op))
  | 0x7 => .instr (.addImm (opX op) (opNN op))
  | 0x8 => decodeAlu op
  | 0x9 => if opN op = 0 then .instr (.sneReg (opX op) (opY op)) else .unrecognized op
  | 0xA => .instr (.ldI (opNNN op))
  | 0xB => .instr (.jpV0 (opNNN op))
  | 0xC => .instr (.rnd (opX op) (opNN op))
  | 0xD => .instr (.drw (opX op) (opY op) (opN op))
  | 0xE => decodeKey op
  | _   => decodeMisc op

/-- `decode(op)`: the exact words first, then the major opcode (rules R83, R93). -/
def decode (op : Word) : Decoded :=
  if op = 0x00E0 then .instr .cls
  else if op = 0x00EE then .instr .ret
  else decodeMajor op

/-- Why a byte sequence gives no instruction. -/
inductive DecodeReject where
  /-- Fewer than two bytes: an instruction is exactly two (rules R80, R88). -/
  | truncated
  /-- The word matches no pattern of the map (rule R85); a step then does nothing but advance (rule R86). -/
  | unrecognized (op : Word)
deriving DecidableEq, Repr

/-- An opcode from two consecutive bytes: the one at the lower address is bits 15:8 (rule R54). -/
def wordOfBytes (hi lo : Byte) : Word := hi ++ lo

/-- Reads one instruction off a byte sequence and gives the rest of it (rules R54, R80, R88). -/
def decodeBytes : List Byte → Except DecodeReject (Instr × List Byte)
  | hi :: lo :: rest =>
    match decode (wordOfBytes hi lo) with
    | .instr i => .ok (i, rest)
    | .unrecognized op => .error (.unrecognized op)
  | [_] => .error .truncated
  | [] => .error .truncated

/-- The two bytes of a word as memory holds them, the high byte first (rule R54). -/
def bytesOfWord (w : Word) : List Byte := [w.extractLsb' 8 8, w.extractLsb' 0 8]

/-- The word of an opcode-table row: its `nbits` bits, every bit above them zero. -/
def tableWord (nbits w : Nat) : Word := BitVec.ofNat 16 (w % 2 ^ nbits)

/-- The instruction the decoder reads from the bytes of an opcode-table word. -/
def decodeTableWord (nbits w : Nat) : Option Instr :=
  match decodeBytes (bytesOfWord (tableWord nbits w)) with
  | .ok (i, _) => some i
  | .error _ => none

/-- A word of the form `h X NN` (rule R81). -/
def wordXNN (h : Nibble) (x : Reg) (nn : Byte) : Word := h ++ regBits x ++ nn

/-- A word of the form `h X Y N` (rule R81). -/
def wordXYN (h : Nibble) (x y : Reg) (n : Nibble) : Word := h ++ regBits x ++ regBits y ++ n

/-- A word of the form `h NNN` (rule R81). -/
def wordNNN (h : Nibble) (nnn : Addr12) : Word := h ++ nnn

/-- The word of an instruction (rule R84). -/
def encode : Instr → Word
  | .cls => 0x00E0
  | .ret => 0x00EE
  | .sys nnn => wordNNN 0x0 nnn
  | .jp nnn => wordNNN 0x1 nnn
  | .call nnn => wordNNN 0x2 nnn
  | .seImm x nn => wordXNN 0x3 x nn
  | .sneImm x nn => wordXNN 0x4 x nn
  | .seReg x y => wordXYN 0x5 x y 0x0
  | .ldImm x nn => wordXNN 0x6 x nn
  | .addImm x nn => wordXNN 0x7 x nn
  | .ldReg x y => wordXYN 0x8 x y 0x0
  | .orReg x y => wordXYN 0x8 x y 0x1
  | .andReg x y => wordXYN 0x8 x y 0x2
  | .xorReg x y => wordXYN 0x8 x y 0x3
  | .addReg x y => wordXYN 0x8 x y 0x4
  | .sub x y => wordXYN 0x8 x y 0x5
  | .shr x y => wordXYN 0x8 x y 0x6
  | .subn x y => wordXYN 0x8 x y 0x7
  | .shl x y => wordXYN 0x8 x y 0xE
  | .sneReg x y => wordXYN 0x9 x y 0x0
  | .ldI nnn => wordNNN 0xA nnn
  | .jpV0 nnn => wordNNN 0xB nnn
  | .rnd x nn => wordXNN 0xC x nn
  | .drw x y n => wordXYN 0xD x y n
  | .skp x => wordXNN 0xE x 0x9E
  | .sknp x => wordXNN 0xE x 0xA1
  | .ldVDt x => wordXNN 0xF x 0x07
  | .ldVK x => wordXNN 0xF x 0x0A
  | .ldDtV x => wordXNN 0xF x 0x15
  | .ldStV x => wordXNN 0xF x 0x18
  | .addI x => wordXNN 0xF x 0x1E
  | .ldF x => wordXNN 0xF x 0x29
  | .ldB x => wordXNN 0xF x 0x33
  | .ldMemV x => wordXNN 0xF x 0x55
  | .ldVMem x => wordXNN 0xF x 0x65

/-- The bytes of an instruction as memory holds them (rules R54, R80). -/
def encodeBytes (i : Instr) : List Byte := bytesOfWord (encode i)

/-- A row of the machine-readable opcode table: a word `w` matches when `w & mask = pattern` (rule R93). -/
structure OpcodeRow where
  mnemonic : String
  pattern  : Word
  mask     : Word
deriving DecidableEq, Repr

/-- The rows of the opcode table whose major opcode is 0 to 7, in its order: the exact words before SYS. -/
def opcodeRowsLow : List OpcodeRow :=
  [⟨"CLS", 0x00E0, 0xFFFF⟩, ⟨"RET", 0x00EE, 0xFFFF⟩, ⟨"SYS", 0x0000, 0xF000⟩, ⟨"JP", 0x1000, 0xF000⟩,
   ⟨"CALL", 0x2000, 0xF000⟩, ⟨"SE_IMM", 0x3000, 0xF000⟩, ⟨"SNE_IMM", 0x4000, 0xF000⟩, ⟨"SE_REG", 0x5000, 0xF00F⟩,
   ⟨"LD_IMM", 0x6000, 0xF000⟩, ⟨"ADD_IMM", 0x7000, 0xF000⟩]

/-- The rows of the opcode table whose major opcode is 8 to D, in its order. -/
def opcodeRowsMiddle : List OpcodeRow :=
  [⟨"LD_REG", 0x8000, 0xF00F⟩, ⟨"OR", 0x8001, 0xF00F⟩, ⟨"AND", 0x8002, 0xF00F⟩, ⟨"XOR", 0x8003, 0xF00F⟩,
   ⟨"ADD_REG", 0x8004, 0xF00F⟩, ⟨"SUB", 0x8005, 0xF00F⟩, ⟨"SHR", 0x8006, 0xF00F⟩, ⟨"SUBN", 0x8007, 0xF00F⟩,
   ⟨"SHL", 0x800E, 0xF00F⟩, ⟨"SNE_REG", 0x9000, 0xF00F⟩, ⟨"LD_I", 0xA000, 0xF000⟩, ⟨"JP_V0", 0xB000, 0xF000⟩,
   ⟨"RND", 0xC000, 0xF000⟩, ⟨"DRW", 0xD000, 0xF000⟩]

/-- The rows of the opcode table whose major opcode is E or F, in its order. -/
def opcodeRowsHigh : List OpcodeRow :=
  [⟨"SKP", 0xE09E, 0xF0FF⟩, ⟨"SKNP", 0xE0A1, 0xF0FF⟩, ⟨"LD_V_DT", 0xF007, 0xF0FF⟩, ⟨"LD_V_K", 0xF00A, 0xF0FF⟩,
   ⟨"LD_DT_V", 0xF015, 0xF0FF⟩, ⟨"LD_ST_V", 0xF018, 0xF0FF⟩, ⟨"ADD_I", 0xF01E, 0xF0FF⟩, ⟨"LD_F", 0xF029, 0xF0FF⟩,
   ⟨"LD_B", 0xF033, 0xF0FF⟩, ⟨"LD_MEM_V", 0xF055, 0xF0FF⟩, ⟨"LD_V_MEM", 0xF065, 0xF0FF⟩]

/-- The opcode table (rules R84, R93): a second, independent account of which word is which instruction. -/
def opcodeTable : List OpcodeRow := opcodeRowsLow ++ opcodeRowsMiddle ++ opcodeRowsHigh

/-- Whether a word matches a row of the table (rule R93). -/
def OpcodeRow.hits (r : OpcodeRow) (op : Word) : Bool := op &&& r.mask == r.pattern

/-- The mnemonic of the first row a word matches; none where the word is unrecognized (rules R83, R93). -/
def tableMnemonic (op : Word) : Option String := (opcodeTable.find? (·.hits op)).map (·.mnemonic)

/-- The mnemonic of what the decoder makes of a word; none where the word is unrecognized. -/
def Decoded.mnemonic? : Decoded → Option String
  | .instr i => some i.mnemonic
  | .unrecognized _ => none

end Sys2Proof
end

