-- ==== Sys2Proof/Config.lean ====
section
/-!
DEFINITION. The implementation parameters of rule R7: the sizes the source fixes, and the named parameters
(their defaults are in Machine/Params.lean). The one free value of the model, the entropy byte of CXNN, is the bodiless constant
`Config.entropy` (rules R35, R132, R222).
-/

namespace Sys2Proof

/-- `MEM_SIZE`: addresses 0x000..0xFFF (rules R7, R50). -/
abbrev memSize : Nat := 4096

/-- `PROG_BASE`: the program's first byte and the initial pc (rule R7). -/
abbrev progBase : Nat := 0x200

/-- `MAX_ROM`: the longest program image, 3584 bytes (rules R7, R241). -/
abbrev maxRom : Nat := memSize - progBase

/-- `STACK_DEPTH`: the bound of the call stack (rules R7, R26). -/
abbrev stackDepth : Nat := 16

/-- `SCREEN_W`: columns of the framebuffer (rule R7). -/
abbrev screenW : Nat := 64

/-- `SCREEN_H`: rows of the framebuffer (rule R7). -/
abbrev screenH : Nat := 32

/-- The bytes of one glyph (rule R34). -/
abbrev glyphBytes : Nat := 5

/-- The bytes of the font: 16 glyphs of 5 (rules R7, R34). -/
abbrev fontBytes : Nat := 80

/-- `LOW_MEM_WRITE`: what a data store below `PROG_BASE` does (rule R59). -/
inductive LowMemWrite where
  | ram
  | fault
deriving DecidableEq, Repr

/-- `SHIFT_SOURCE`: the operand of 8XY6 and 8XYE (rules R148, R150). -/
inductive ShiftSource where
  | vx
  | vy
deriving DecidableEq, Repr

/-- `KEY_INDEX_POLICY`: what a key index above 0xF does (rule R180). -/
inductive KeyIndexPolicy where
  | fault
  | mask
deriving DecidableEq, Repr

/-- The parameters fixed when the block is built; no instruction writes them (rules R7, R33). -/
structure Config where
  fontBase       : Nat
  fontTable      : List Byte
  lowMemWrite    : LowMemWrite
  shiftSource    : ShiftSource
  keyIndexPolicy : KeyIndexPolicy
  resetV         : Byte
  resetI         : Word
  resetDT        : Byte
  resetST        : Byte
deriving DecidableEq, Repr

/-- The parameters a block may be built with: `FONT_BASE + 80 <= 0x200` and an 80-byte font (rules R7, R34, R52). -/
abbrev Config.wf (c : Config) : Prop :=
  c.fontBase + fontBytes ≤ progBase ∧ c.fontTable.length = fontBytes

/-- FREE VALUE. The `n`-th entropy draw that no host sequence supplies: any byte at all, under no law (rules R35,
R132, R222; notes/assumptions/2). -/
opaque Config.entropy (n : Nat) : Byte

end Sys2Proof
end

