-- ==== Sys2Proof/Machine/Params.lean ====
section
/-!
DEFINITION. The default values of the implementation parameters (rule R7), the default font (rule R34), and what
memory holds after construction (rules R36, R51).
-/

namespace Sys2Proof

/-- The glyphs 0 to 7 of the default `FONT_TABLE` (rule R34). -/
def Config.fontLow : List Byte :=
  [0xF0, 0x90, 0x90, 0x90, 0xF0,  0x20, 0x60, 0x20, 0x20, 0x70,
   0xF0, 0x10, 0xF0, 0x80, 0xF0,  0xF0, 0x10, 0xF0, 0x10, 0xF0,
   0x90, 0x90, 0xF0, 0x10, 0x10,  0xF0, 0x80, 0xF0, 0x10, 0xF0,
   0xF0, 0x80, 0xF0, 0x90, 0xF0,  0xF0, 0x10, 0x20, 0x40, 0x40]

/-- The glyphs 8 to F of the default `FONT_TABLE` (rule R34). -/
def Config.fontHigh : List Byte :=
  [0xF0, 0x90, 0xF0, 0x90, 0xF0,  0xF0, 0x90, 0xF0, 0x10, 0xF0,
   0xF0, 0x90, 0xF0, 0x90, 0x90,  0xE0, 0x90, 0xE0, 0x90, 0xE0,
   0xF0, 0x80, 0x80, 0x80, 0xF0,  0xE0, 0x90, 0x90, 0x90, 0xE0,
   0xF0, 0x80, 0xF0, 0x80, 0xF0,  0xF0, 0x80, 0xF0, 0x80, 0x80]

/-- The defaults of rule R7. PRESUMED: the font bytes (notes/assumptions/6). DESIGN CHOICE of the spec: the policies
and the reset values (notes/assumptions/4, 14, 15, 16). -/
def Config.default : Config where
  fontBase       := 0
  fontTable      := Config.fontLow ++ Config.fontHigh
  lowMemWrite    := .ram
  shiftSource    := .vx
  keyIndexPolicy := .fault
  resetV         := 0
  resetI         := 0
  resetDT        := 0
  resetST        := 0

/-- What a byte of memory holds after construction with no ROM: the font at `FONT_BASE..FONT_BASE+79`, zero
elsewhere (rules R36, R51, R240). -/
def Config.constructedByte (c : Config) (a : Nat) : Byte :=
  if c.fontBase ≤ a ∧ a < c.fontBase + fontBytes then c.fontTable.getD (a - c.fontBase) 0 else 0

end Sys2Proof
end

