-- ==== Sys2Proof/Machine/State.lean ====
section
/-!
DEFINITION. The machine's state: every element of rules R20 to R36, as plain data, the faults of rule R200, the run
state of rule R32, and the state right after construction (rules R36, R240).
-/

namespace Sys2Proof.Machine

/-- The fault kinds of rule R200. Each is entered by writing RUN (`raise`, rule R205) and is then answered by every
later step (rule R206). All are faults the spec gives, so none is a difference from the hardware. -/
inductive Fault where
  /-- Raised by CALL with 16 frames saved (rule R201). Safe: the spec's own fault. -/
  | stackOverflow
  /-- Raised by RET with no frame saved (rule R202). Safe: the spec's own fault. -/
  | stackUnderflow
  /-- Raised by a fetch, DXYN, FX33, FX55 or FX65 at an address outside memory, and by a store below 0x200 under
  `LOW_MEM_WRITE = fault`; `a` is the lowest such address (rules R55, R59, R203). Safe: the spec's own fault. -/
  | memoryOutOfRange (a : Nat)
  /-- Raised by EX9E and EXA1 with VX > 15 under `KEY_INDEX_POLICY = fault`; `v` is VX (rule R204). Safe: the spec's
  own fault. -/
  | keyOutOfRange (v : Byte)
  /-- Raised by nothing: rule R200 lists it, and no encoding reaches it (rules R22, R204). Safe. -/
  | registerOutOfRange (index : Nat)
deriving DecidableEq, Repr

/-- Why the model itself declines an instruction. -/
inductive Refusal where
  /-- Answered by an arm of `exec` for an instruction that has no meaning yet, named by its mnemonic; no arm does so
  now. Safe: the machine stops where the hardware goes on. -/
  | notModelled (mnemonic : String)
deriving DecidableEq, Repr

/-- `RUN`, the core's run state (rule R32). -/
inductive Run where
  | running
  /-- Waiting in FX0A for a key, to be stored in register `x` (rules R184, R185). -/
  | awaitingKey (x : Reg)
  /-- Stopped by a fault; terminal (rules R205, R206). -/
  | faulted (f : Fault)
deriving DecidableEq, Repr

/-- Memory: the bytes that differ from what construction left, by rising address (rule R50). -/
abbrev Memory := List Host.Cell

/-- One row of the framebuffer: bit `x` is the cell at column `x`, true is lit (rule R30). -/
abbrev ScreenRow := BitVec 64

/-- The 64 x 32 framebuffer: row `y` is `SCREEN[y]` (rule R30). -/
abbrev Screen := Vector ScreenRow 32

/-- Everything the spec gives the machine (rule R36), its build parameters, and the entropy input. -/
structure State where
  /-- The build parameters of rule R7; no transaction writes them (rule R33). -/
  config : Config
  /-- The general registers V0..VF; V15 is the flag register (rules R20, R21). -/
  v      : Vector Byte 16
  /-- The address register I (rule R23). -/
  i      : Word
  /-- The program counter (rule R24). -/
  pc     : Word
  /-- The saved return addresses, the top first; its length is SP (rules R26, R27). -/
  stack  : List Word
  /-- The delay timer DT (rule R28). -/
  dt     : Byte
  /-- The sound timer ST (rule R29). -/
  st     : Byte
  /-- The framebuffer SCREEN (rule R30). -/
  screen : Screen
  /-- The key latches as the host last drove them, bit `k` for key `k` (rules R31, R221). -/
  keys   : BitVec 16
  /-- The run state RUN (rule R32). -/
  run    : Run
  /-- The memory MEM (rule R50). -/
  mem    : Memory
  /-- MODEL'S OWN. The entropy bytes the host has lined up, the next draw first (rules R132, R222). -/
  draws  : List Byte
  /-- MODEL'S OWN. How many draws have been taken; it picks the free value when `draws` is empty (rule R35). -/
  drawn  : Nat
deriving DecidableEq, Repr

/-- The machine as `load` constructs it for the parameters `c`, before a ROM is written (rules R36, R240). DESIGN
CHOICE: the reset values the source does not give (notes/assumptions/4, 5) and those of `draws` and `drawn`
(notes/assumptions/2). -/
def State.construct (c : Config) : State where
  config := c
  v      := Vector.replicate 16 c.resetV
  i      := c.resetI
  pc     := BitVec.ofNat 16 progBase
  stack  := []
  dt     := c.resetDT
  st     := c.resetST
  screen := Vector.replicate 32 0
  keys   := 0
  run    := .running
  mem    := []
  draws  := []
  drawn  := 0

/-- The machine right after reset: construction with the default parameters and no ROM (rules R36, R240, R241). -/
def State.reset : State := State.construct Config.default

end Sys2Proof.Machine
end

