-- ==== Sys2Proof/Machine/Ops.lean ====
section
/-!
DEFINITION. The shared operations over State: registers, pc, stack, timers, memory with its bounds checks, fetch,
the entropy draw, and entering a fault (rules R10, R20 to R36, R50 to R62, R205). The spec has no return from a fault
(rule R206), so none stands beside it.
-/

namespace Sys2Proof.Machine

/-- The answer of a meaning or a step. -/
abbrev Answer := Host.Outcome State Fault Refusal

/-! ## Registers, pc, timers and run state -/

/-- `V[x]` (rule R10). -/
def State.getV (s : State) (x : Reg) : Byte := s.v[x]

/-- `V[x] <- b` (rule R10). -/
def State.setV (s : State) (x : Reg) (b : Byte) : State := { s with v := s.v.set x b }

/-- `I <- a` (rule R10). -/
def State.setI (s : State) (a : Word) : State := { s with i := a }

/-- `pc <- a` (rule R10). -/
def State.jump (s : State) (a : Word) : State := { s with pc := a }

/-- `next`: `pc <- (pc + 2) mod 2^16` (rule R10). -/
def State.advance (s : State) : State := { s with pc := s.pc + 2 }

/-- A conditional skip: pc + 4 if the condition holds, else pc + 2 (rule R119). -/
def State.skipIf (s : State) (c : Bool) : State := { s with pc := if c then s.pc + 4 else s.pc + 2 }

/-- `DT <- b` (rule R10). -/
def State.setDt (s : State) (b : Byte) : State := { s with dt := b }

/-- `ST <- b` (rule R10). -/
def State.setSt (s : State) (b : Byte) : State := { s with st := b }

/-- `RUN <- r` (rule R32). -/
def State.setRun (s : State) (r : Run) : State := { s with run := r }

/-- Writes the framebuffer (rule R30). -/
def State.setScreen (s : State) (scr : Screen) : State := { s with screen := scr }

/-! ## The call stack -/

/-- `SP`: the number of saved frames (rule R26). -/
def State.sp (s : State) : Nat := s.stack.length

/-- `STACK[k]`, which holds a value for k < SP only (rule R26). -/
def State.stackEntry (s : State) (k : Nat) : Option Word := s.stack.reverse[k]?

/-- `STACK[SP] <- a; SP <- SP + 1` (rule R112). -/
def State.push (s : State) (a : Word) : State := { s with stack := a :: s.stack }

/-- `SP <- SP - 1`, the stack left being `rest` (rule R110). -/
def State.popTo (s : State) (rest : List Word) : State := { s with stack := rest }

/-! ## Memory -/

/-- The byte at `a`: the listed one, or what construction left (rules R50, R62). -/
def Memory.read (c : Config) : Memory → Nat → Byte
  | [], a => c.constructedByte a
  | (k, b) :: m, a => if k = a then b else Memory.read c m a

/-- Puts a cell in front, unless it says what an unlisted address reads as. -/
def Memory.put (c : Config) (m : Memory) (a : Nat) (b : Byte) : Memory :=
  if b = c.constructedByte a then m else (a, b) :: m

/-- Writes one byte, keeping the list rising and free of cells that equal the constructed byte. -/
def Memory.write (c : Config) : Memory → Nat → Byte → Memory
  | [], a, b => Memory.put c [] a b
  | (k, w) :: m, a, b =>
    if a < k then Memory.put c ((k, w) :: m) a b
    else if a = k then Memory.put c m a b
    else (k, w) :: Memory.write c m a b

/-- Writes a run of bytes at `a`, `a + 1`, … in order (rules R10, R62). -/
def Memory.writeRun (c : Config) : Memory → Nat → List Byte → Memory
  | m, _, [] => m
  | m, a, b :: bs => Memory.writeRun c (Memory.write c m a b) (a + 1) bs

/-- The canonical form: addresses strictly rising, and no cell that says what an unlisted address reads as. -/
abbrev Memory.wf (c : Config) (m : Memory) : Prop :=
  m.Pairwise (fun p q => p.1 < q.1) ∧ ∀ p ∈ m, p.2 ≠ c.constructedByte p.1

/-- Every listed address exists (rule R50). -/
abbrev Memory.bounded (m : Memory) : Prop := ∀ p ∈ m, p.1 < memSize

/-- `MemRead(a, 1)` of an address in range (rule R10). -/
def State.readByte (s : State) (a : Nat) : Byte := Memory.read s.config s.mem a

/-- The bytes at `a .. a + n - 1`, in order (rule R10). -/
def State.readRun (s : State) (a n : Nat) : List Byte := (List.range n).map (fun k => s.readByte (a + k))

/-- Stores the bytes `bs` at `a`, `a + 1`, … (rules R10, R62). -/
def State.writeRun (s : State) (a : Nat) (bs : List Byte) : State :=
  { s with mem := Memory.writeRun s.config s.mem a bs }

/-- The lowest address at or above 4096 among `a .. a + n - 1`, on unbounded integers (rules R10, R55). -/
def firstOutOfRange (a n : Nat) : Option Nat :=
  if 0 < n ∧ memSize ≤ a + n - 1 then some (max a memSize) else none

/-- The fault of reading `n` bytes at `a` (rules R55, R203). -/
def readFault (a n : Nat) : Option Fault := (firstOutOfRange a n).map .memoryOutOfRange

/-- The fault of storing `n` bytes at `a`: the bound, then `LOW_MEM_WRITE` (rules R55, R59, R203, R207). -/
def storeFault (c : Config) (a n : Nat) : Option Fault :=
  match firstOutOfRange a n with
  | some b => some (.memoryOutOfRange b)
  | none =>
    if 0 < n ∧ a < progBase ∧ c.lowMemWrite = .fault then some (.memoryOutOfRange a) else none

/-! ## Faults -/

/-- Fault entry: RUN records the fault and every other element keeps its value (rule R205). -/
def raise (f : Fault) (s : State) : Answer := .next (s.setRun (.faulted f))

/-- An instruction whose checks found `fault?` (all made before any write, rule R10) and whose effect is `t`. -/
def checked (s : State) (fault? : Option Fault) (t : State) : Answer :=
  match fault? with
  | some f => raise f s
  | none => .next t

/-! ## Fetch -/

/-- The two bytes at pc, the one at the lower address in the high half (rules R54, R89). -/
def State.fetchWord (s : State) : Word := wordOfBytes (s.readByte s.pc.toNat) (s.readByte (s.pc.toNat + 1))

/-- The fault of fetching at pc (rules R89, R207). -/
def State.fetchFault (s : State) : Option Fault := readFault s.pc.toNat 2

/-- A machine that will fetch at its next step: running, with a pc that has two bytes of memory (rule R89). -/
def State.fetchReady (s : State) : State :=
  { s with run := .running, pc := if s.pc.toNat + 1 < memSize then s.pc else BitVec.ofNat 16 progBase }

/-! ## Entropy -/

/-- `RandByte()`: the byte the host lined up for this draw, or a free value (rules R10, R35, R222). -/
def State.randByte (s : State) : Byte :=
  match s.draws with
  | b :: _ => b
  | [] => Config.entropy s.drawn

/-- The draw is consumed (rule R132). -/
def State.consumeDraw (s : State) : State := { s with draws := s.draws.tail, drawn := s.drawn + 1 }

end Sys2Proof.Machine
end

