-- ==== Sys2Proof/Machine/Operands.lean ====
section
/-!
DEFINITION. Operand forms: the shift operand, the key index and the lowest pressed key, the glyph address, decimal
digits, the registers V0..VX, and the pixels of a sprite (rules R101, R103, R148, R162 to R166, R180, R184).
-/

namespace Sys2Proof.Machine

/-- `zext_16(NNN)` (rules R82, R111, R160). -/
def addrOf (nnn : Addr12) : Word := nnn.setWidth 16

/-- The operand of 8XY6 and 8XYE under `SHIFT_SOURCE` (rules R148, R150). -/
def State.shiftOperand (s : State) (x y : Reg) : Byte :=
  match s.config.shiftSource with
  | .vx => s.getV x
  | .vy => s.getV y

/-- `KEYS[k]`: true is pressed (rule R31). -/
def State.keyPressed (s : State) (k : Nat) : Bool := s.keys.getLsbD k

/-- `key_index(v)`: an index of a latch, or the fault that the policy asks for (rule R180). -/
def keyIndex (c : Config) (v : Byte) : Except Fault Nat :=
  if v.toNat ≤ 0xF then .ok v.toNat
  else match c.keyIndexPolicy with
    | .fault => .error (.keyOutOfRange v)
    | .mask => .ok (v &&& 0xF).toNat

/-- `min { k | KEYS[k] }`, where some key is pressed (rule R184). -/
def State.lowestKey (s : State) : Option Nat := (List.range 16).find? (fun k => s.keyPressed k)

/-- `FONT_BASE + 5 * v` (rule R162). -/
def glyphAddress (c : Config) (v : Byte) : Word := BitVec.ofNat 16 (c.fontBase + glyphBytes * v.toNat)

/-- The three decimal digits of a byte, hundreds first (rule R163). -/
def bcdDigits (v : Byte) : List Byte :=
  [BitVec.ofNat 8 (v.toNat / 100), BitVec.ofNat 8 (v.toNat / 10 % 10), BitVec.ofNat 8 (v.toNat % 10)]

/-- The values of V0..VX, inclusive (rule R164). -/
def State.regsTo (s : State) (x : Reg) : List Byte := s.v.toList.take (x.val + 1)

/-- `for i in 0..X: V[i] <- MemRead(a + i, 1)` (rule R165): register `r` of the file is loaded when r ≤ X. -/
def State.loadRegs (s : State) (a : Nat) (x : Reg) : State :=
  { s with v := s.v.mapFinIdx (fun r old _ => if r ≤ x.val then s.readByte (a + r) else old) }

/-- `SCREEN[y][x]` (rule R30). -/
def cellAt (scr : Screen) (x y : Nat) : Bool := (scr[y]?.getD 0).getLsbD x

/-- `SCREEN[y][x] <- SCREEN[y][x] ^ 1` (rule R101). -/
def flipCell (scr : Screen) (x y : Nat) : Screen :=
  scr.setIfInBounds y (scr[y]?.getD 0 ^^^ BitVec.twoPow 64 x)

/-- The cells under the set bits of one sprite byte whose leftmost pixel is at column `x0` of row `y`; bit 7 is the
leftmost, and each column wraps on its own (rules R101, R103). -/
def rowPixels (x0 y : Nat) (b : Byte) : List (Nat × Nat) :=
  ((List.range 8).filter (fun c => b.getLsbD (7 - c))).map (fun c => ((x0 + c) % screenW, y))

/-- The cells under the set bits of a sprite whose first row is at row `y0`, in drawing order (rule R101). -/
def spritePixels (x0 : Nat) : Nat → List Byte → List (Nat × Nat)
  | _, [] => []
  | y0, b :: bs => rowPixels x0 (y0 % screenH) b ++ spritePixels x0 (y0 + 1) bs

end Sys2Proof.Machine
end

