-- ==== Sys2Proof/Machine/Flags.lean ====
section
/-!
DEFINITION. The flag computations, every one a value for VF: carry, no borrow, the bit shifted out, and the sprite
unit's collision detector (rules R8, R21, R102, R141, R146 to R151), and the order in which a result and its flag are
written (rule R141).
-/

namespace Sys2Proof.Machine

/-- A flag's value in VF: exactly 0 or 1 (rule R141). -/
def flagByte (b : Bool) : Byte := if b then 1 else 0

/-- The carry out of bit 7 of `a + b` (rule R146). -/
def carryOut (a b : Byte) : Bool := decide (256 ≤ a.toNat + b.toNat)

/-- No borrow in `a - b`: minuend at least subtrahend (rules R147, R149). -/
def noBorrow (a b : Byte) : Bool := decide (b.toNat ≤ a.toNat)

/-- The result goes to VX first and the flag to VF last, so with X = F the flag stays (rule R141). -/
def State.setResultAndFlag (s : State) (x : Reg) (result : Byte) (flag : Bool) : State :=
  (s.setV x result).setV flagReg (flagByte flag)

/-- The sprite unit while it draws: the framebuffer and the collision bit (rule R102). -/
structure Canvas where
  screen    : Screen
  collision : Bool
deriving DecidableEq, Repr

/-- XORs one set sprite pixel onto its cell; a cell that was lit sets the collision bit (rules R101, R102). -/
def plot (cv : Canvas) (p : Nat × Nat) : Canvas where
  screen    := flipCell cv.screen p.1 p.2
  collision := cv.collision || cellAt cv.screen p.1 p.2

/-- Draws a sprite with its top left pixel at `(x0, y0)`, the collision bit cleared first (rules R101, R102). -/
def drawSprite (scr : Screen) (x0 y0 : Nat) (rows : List Byte) : Canvas :=
  (spritePixels x0 y0 rows).foldl plot { screen := scr, collision := false }

end Sys2Proof.Machine
end

