-- ==== Sys2Proof/Machine/Alu.lean ====
section
/-!
DEFINITION. The register-register ALU family (43_alu.md): 8XY0 to 8XYE. Both sources are read before any write, and
the flag is written last (rule R141).
-/

namespace Sys2Proof.Machine

/-- 8XY0 LD VX, VY (rule R142). -/
def execLdReg (x y : Reg) (s : State) : Answer := .next (s.setV x (s.getV y)).advance

/-- 8XY1 OR VX, VY: VF is no flag here (rule R143). -/
def execOrReg (x y : Reg) (s : State) : Answer := .next (s.setV x (s.getV x ||| s.getV y)).advance

/-- 8XY2 AND VX, VY: VF is no flag here (rule R144). -/
def execAndReg (x y : Reg) (s : State) : Answer := .next (s.setV x (s.getV x &&& s.getV y)).advance

/-- 8XY3 XOR VX, VY: VF is no flag here (rule R145). -/
def execXorReg (x y : Reg) (s : State) : Answer := .next (s.setV x (s.getV x ^^^ s.getV y)).advance

/-- 8XY4 ADD VX, VY: VF is the carry (rule R146). -/
def execAddReg (x y : Reg) (s : State) : Answer :=
  .next (s.setResultAndFlag x (s.getV x + s.getV y) (carryOut (s.getV x) (s.getV y))).advance

/-- 8XY5 SUB VX, VY: VX - VY, VF is no borrow (rule R147). -/
def execSub (x y : Reg) (s : State) : Answer :=
  .next (s.setResultAndFlag x (s.getV x - s.getV y) (noBorrow (s.getV x) (s.getV y))).advance

/-- 8XY6 SHR VX: one bit right, VF is bit 0 of the operand (rule R148). -/
def execShr (x y : Reg) (s : State) : Answer :=
  .next (s.setResultAndFlag x (s.shiftOperand x y >>> 1) ((s.shiftOperand x y).getLsbD 0)).advance

/-- 8XY7 SUBN VX, VY: VY - VX, VF is no borrow (rule R149). -/
def execSubn (x y : Reg) (s : State) : Answer :=
  .next (s.setResultAndFlag x (s.getV y - s.getV x) (noBorrow (s.getV y) (s.getV x))).advance

/-- 8XYE SHL VX: one bit left, VF is bit 7 of the operand (rule R150). -/
def execShl (x y : Reg) (s : State) : Answer :=
  .next (s.setResultAndFlag x (s.shiftOperand x y <<< 1) ((s.shiftOperand x y).getLsbD 7)).advance

end Sys2Proof.Machine
end

