-- ==== Sys2Proof/Machine/Display.lean ====
section
/-!
DEFINITION. The display family (40_display.md): 00E0 and DXYN.
-/

namespace Sys2Proof.Machine

/-- 00E0 CLS: every cell unlit (rule R100). -/
def execCls (s : State) : Answer := .next (s.setScreen (Vector.replicate 32 0)).advance

/-- DXYN DRW: the origin and the sprite are read before any write, and VF is written last (rules R101 to R103). -/
def execDrw (x y : Reg) (n : Nibble) (s : State) : Answer :=
  let canvas := drawSprite s.screen ((s.getV x).toNat % screenW) ((s.getV y).toNat % screenH)
    (s.readRun s.i.toNat n.toNat)
  checked s (readFault s.i.toNat n.toNat)
    ((s.setScreen canvas.screen).setV flagReg (flagByte canvas.collision)).advance

end Sys2Proof.Machine
end

