-- ==== Sys2Proof/Machine/Flow.lean ====
section
/-!
DEFINITION. The control-flow family (41_flow.md): return, jump, call, the register and immediate skips, the computed
jump, SYS, and what a step does with a word that no pattern matches (rule R86).
-/

namespace Sys2Proof.Machine

/-- 00EE RET: pops pc, or underflows (rule R110). -/
def execRet (s : State) : Answer :=
  match s.stack with
  | [] => raise .stackUnderflow s
  | a :: rest => .next ((s.popTo rest).jump a)

/-- 0NNN SYS: no effect but `next` (rule R118). -/
def execSys (_nnn : Addr12) (s : State) : Answer := .next s.advance

/-- 1NNN JP (rule R111). -/
def execJp (nnn : Addr12) (s : State) : Answer := .next (s.jump (addrOf nnn))

/-- 2NNN CALL: pushes pc + 2, or overflows (rule R112). -/
def execCall (nnn : Addr12) (s : State) : Answer :=
  checked s (if stackDepth ≤ s.sp then some .stackOverflow else none) ((s.push (s.pc + 2)).jump (addrOf nnn))

/-- 3XNN SE VX, NN (rule R113). -/
def execSeImm (x : Reg) (nn : Byte) (s : State) : Answer := .next (s.skipIf (s.getV x == nn))

/-- 4XNN SNE VX, NN (rule R114). -/
def execSneImm (x : Reg) (nn : Byte) (s : State) : Answer := .next (s.skipIf (s.getV x != nn))

/-- 5XY0 SE VX, VY (rule R115). -/
def execSeReg (x y : Reg) (s : State) : Answer := .next (s.skipIf (s.getV x == s.getV y))

/-- 9XY0 SNE VX, VY (rule R116). -/
def execSneReg (x y : Reg) (s : State) : Answer := .next (s.skipIf (s.getV x != s.getV y))

/-- BNNN JP V0, NNN: the sum is not masked to 12 bits (rule R117). -/
def execJpV0 (nnn : Addr12) (s : State) : Answer := .next (s.jump (addrOf nnn + (s.getV 0).setWidth 16))

/-- `UNRECOGNIZED`: no effect but `next` (rule R86). -/
def execUnrecognized (s : State) : Answer := .next s.advance

end Sys2Proof.Machine
end

