-- ==== Sys2Proof/Machine/Immediate.lean ====
section
/-!
DEFINITION. The register-immediate family (42_immediate.md): 6XNN, 7XNN and CXNN.
-/

namespace Sys2Proof.Machine

/-- 6XNN LD VX, NN (rule R130). -/
def execLdImm (x : Reg) (nn : Byte) (s : State) : Answer := .next (s.setV x nn).advance

/-- 7XNN ADD VX, NN: modulo 256, with no flag (rule R131). -/
def execAddImm (x : Reg) (nn : Byte) (s : State) : Answer := .next (s.setV x (s.getV x + nn)).advance

/-- CXNN RND VX, NN: one draw, masked (rule R132). -/
def execRnd (x : Reg) (nn : Byte) (s : State) : Answer := .next (s.consumeDraw.setV x (s.randByte &&& nn)).advance

end Sys2Proof.Machine
end

