-- ==== Sys2Proof/Machine/IndexMemory.lean ====
section
/-!
DEFINITION. The address-register and memory family (44_index_memory.md): ANNN, FX1E, FX29, FX33, FX55, FX65. No form
changes I by addressing memory through it (rule R166).
-/

namespace Sys2Proof.Machine

/-- ANNN LD I, NNN (rule R160). -/
def execLdI (nnn : Addr12) (s : State) : Answer := .next (s.setI (addrOf nnn)).advance

/-- FX1E ADD I, VX: modulo 2^16, with no flag and no bounds check (rule R161). -/
def execAddI (x : Reg) (s : State) : Answer := .next (s.setI (s.i + (s.getV x).setWidth 16)).advance

/-- FX29 LD F, VX: the address of the glyph of VX, unmasked (rule R162). -/
def execLdF (x : Reg) (s : State) : Answer := .next (s.setI (glyphAddress s.config (s.getV x))).advance

/-- FX33 LD B, VX: hundreds, tens and units of VX at I, I+1, I+2 (rule R163). -/
def execLdB (x : Reg) (s : State) : Answer :=
  checked s (storeFault s.config s.i.toNat 3) (s.writeRun s.i.toNat (bcdDigits (s.getV x))).advance

/-- FX55 LD [I], VX: V0..VX, inclusive, to I..I+X (rule R164). -/
def execLdMemV (x : Reg) (s : State) : Answer :=
  checked s (storeFault s.config s.i.toNat (x.val + 1)) (s.writeRun s.i.toNat (s.regsTo x)).advance

/-- FX65 LD VX, [I]: V0..VX, inclusive, from I..I+X (rule R165). -/
def execLdVMem (x : Reg) (s : State) : Answer :=
  checked s (readFault s.i.toNat (x.val + 1)) (s.loadRegs s.i.toNat x).advance

end Sys2Proof.Machine
end

