-- ==== Sys2Proof/Machine/KeysTimers.lean ====
section
/-!
DEFINITION. The key and timer family (45_keys_timers.md): EX9E, EXA1, FX07, FX0A, FX15, FX18, and the step of a
machine that waits for a key (rule R185).
-/

namespace Sys2Proof.Machine

/-- EX9E SKP VX (rule R181). -/
def execSkp (x : Reg) (s : State) : Answer :=
  match keyIndex s.config (s.getV x) with
  | .ok k => .next (s.skipIf (s.keyPressed k))
  | .error f => raise f s

/-- EXA1 SKNP VX (rule R182). -/
def execSknp (x : Reg) (s : State) : Answer :=
  match keyIndex s.config (s.getV x) with
  | .ok k => .next (s.skipIf (!s.keyPressed k))
  | .error f => raise f s

/-- FX07 LD VX, DT (rule R183). -/
def execLdVDt (x : Reg) (s : State) : Answer := .next (s.setV x s.dt).advance

/-- The key of a wait arrives in VX and pc moves past the FX0A (rules R184, R185). -/
def State.takeKey (s : State) (x : Reg) (k : Nat) : State := (s.setV x (BitVec.ofNat 8 k)).advance

/-- FX0A LD VX, K: the lowest pressed key, or the wait state with pc unchanged (rule R184). -/
def execLdVK (x : Reg) (s : State) : Answer :=
  match s.lowestKey with
  | some k => .next (s.takeKey x k)
  | none => .next (s.setRun (.awaitingKey x))

/-- The awaiting-key step: a pressed key completes the FX0A at pc; otherwise nothing changes (rule R185). -/
def awaitingKeyStep (x : Reg) (s : State) : State :=
  match s.lowestKey with
  | some k => (s.takeKey x k).setRun .running
  | none => s

/-- FX15 LD DT, VX (rule R186). -/
def execLdDtV (x : Reg) (s : State) : Answer := .next (s.setDt (s.getV x)).advance

/-- FX18 LD ST, VX (rule R187). -/
def execLdStV (x : Reg) (s : State) : Answer := .next (s.setSt (s.getV x)).advance

end Sys2Proof.Machine
end

