-- ==== Sys2Proof/Machine/Step.lean ====
section
/-!
DEFINITION. The step transaction (rule R89), and placing a word where the next step fetches it.
-/

namespace Sys2Proof.Machine

/-- A word that was fetched: its instruction, or the no-op of an unrecognized word (rules R83, R86, R89). -/
def execDecoded (d : Decoded) (s : State) : Host.Outcome State Fault Refusal :=
  match d with
  | .instr i => exec i s
  | .unrecognized _ => execUnrecognized s

/-- `step()` of rule R89. A faulted machine answers its fault and changes nothing (rule R206); a waiting one polls the
keys and fetches nothing (rule R185); a running one fetches, decodes and executes. -/
def step (s : State) : Host.Outcome State Fault Refusal :=
  match s.run with
  | .faulted f => .fault f
  | .awaitingKey x => .next (awaitingKeyStep x s)
  | .running =>
    match s.fetchFault with
    | some f => raise f s
    | none => execDecoded (decode s.fetchWord) s

/-- `s` with the word of an opcode-table row stored where the next step fetches. The fetch needs a running machine and
a pc with two bytes of memory; a pc that has none is moved to `PROG_BASE` (notes/assumptions/8). -/
def State.withFetchWord (s : State) (nbits w : Nat) : State :=
  (s.fetchReady).writeRun s.fetchReady.pc.toNat (bytesOfWord (tableWord nbits w))

end Sys2Proof.Machine
end

