-- ==== Sys2Proof/Machine/HostPort.lean ====
section
/-!
DEFINITION. The host's transactions (rules R220 to R225, R240, R241): construction and load, the key latches, the
timer tick, a step with its entropy byte, the result of a step (rule R213), schedules of transactions (rule R225), the
outputs (rule R224), the fault codes (rule R200), and the framebuffer export (rule R104).
-/

namespace Sys2Proof.Machine

/-- Why `load` makes no machine (rule R208). -/
inductive LoadError where
  /-- The ROM has more than 3584 bytes (rules R208, R241). -/
  | romTooLarge (len : Nat)
deriving DecidableEq, Repr

/-- `load(rom)` for a block built with the parameters `c` (rules R240, R241). -/
def load (c : Config) (rom : List Byte) : Except LoadError State :=
  if memSize < rom.length + progBase then .error (.romTooLarge rom.length)
  else .ok ((State.construct c).writeRun progBase rom)

/-- `set_keys(k)`: all 16 latches at once (rule R221). -/
def setKeys (k : BitVec 16) (s : State) : State := { s with keys := k }

/-- One timer decrement, clamped at 0 (rule R223). -/
def decay (b : Byte) : Byte := if b = 0 then 0 else b - 1

/-- `tick()`: both timers, whatever RUN is (rule R223). -/
def tick (s : State) : State := { s with dt := decay s.dt, st := decay s.st }

/-- The result the host reads from a step (rule R213). -/
inductive StepResult where
  | ok
  | fault (f : Fault)
deriving DecidableEq, Repr

/-- `(RUN is Faulted(f)) ? Fault(f) : Ok` (rule R89). -/
def State.result (s : State) : StepResult :=
  match s.run with
  | .faulted f => .fault f
  | .running | .awaitingKey _ => .ok

/-- The state after a step from `s`: a faulted machine's step changes nothing (rule R206). -/
def stateAfter (s : State) (a : Answer) : State :=
  match a with
  | .next t => t
  | .fault _ => s
  | .refused _ => s

/-- `step(rand)`: the host drives the entropy byte with the step; only CXNN takes it (rules R220, R222). -/
def hostStep (rand : Byte) (s : State) : State :=
  { stateAfter s (step { s with draws := [rand] }) with draws := s.draws }

/-- A host transaction after `load` (rules R220, R225). -/
inductive HostCmd where
  | setKeys (k : BitVec 16)
  | step (rand : Byte)
  | tick
deriving DecidableEq, Repr

/-- One transaction, atomically (rule R225). -/
def transact (c : HostCmd) (s : State) : State :=
  match c with
  | .setKeys k => setKeys k s
  | .step rand => hostStep rand s
  | .tick => tick s

/-- A schedule of transactions, one at a time (rule R225). -/
def runSchedule : List HostCmd → State → State
  | [], s => s
  | c :: cs, s => runSchedule cs (transact c s)

/-- The outputs of the block (rule R224). -/
structure Outputs where
  screen : Screen
  dt     : Byte
  st     : Byte
  run    : Run
deriving DecidableEq, Repr

/-- What the host reads between transactions (rule R224). -/
def State.outputs (s : State) : Outputs := { screen := s.screen, dt := s.dt, st := s.st, run := s.run }

/-- The numeric fault codes (rule R200). DESIGN CHOICE of the spec (notes/assumptions/1). -/
def Fault.code : Fault → Nat
  | .stackOverflow => 1
  | .stackUnderflow => 2
  | .memoryOutOfRange _ => 3
  | .keyOutOfRange _ => 4
  | .registerOutOfRange _ => 5

/-- A pixel of the exported image; its bytes and channel order are not given (rule R104). -/
inductive ExportPixel where
  | opaqueWhite
  | opaqueBlack
deriving DecidableEq, Repr

/-- The exported pixel at column `x`, row `y` from the top: row 0 of the grid is the bottom row (rule R104). -/
def exportPixel (scr : Screen) (x y : Nat) : ExportPixel :=
  if cellAt scr x (screenH - 1 - y) then .opaqueWhite else .opaqueBlack

end Sys2Proof.Machine
end

