-- ==== Sys2Proof/Machine/RunEnd.lean ====
section
/-!
DEFINITION. The end of a run (rule R249): which states can be one, and which state of a schedule is the one.
-/

namespace Sys2Proof.Machine

/-- What holds of the end of a run (rule R249): (a) a recorded fault, or (b) a running machine whose word at pc is a
jump to itself. A waiting machine is at no end. -/
def State.runEnded (s : State) : Bool :=
  match s.run with
  | .faulted _ => true
  | .awaitingKey _ => false
  | .running => decide (s.fetchFault = none) && decide (decode s.fetchWord = .instr (.jp (s.pc.setWidth 12)))
      && decide (s.pc.toNat < memSize)

/-- The end of the run that a schedule makes from `s`: the first state reached by a step of which `runEnded` holds
(rule R249). The state before the first step is no end, nor is one that only a tick or a change of the latches gives;
a schedule none of whose steps reaches an end has none. -/
def endOfRun : List HostCmd → State → Option State
  | [], _ => none
  | .setKeys k :: cs, s => endOfRun cs (setKeys k s)
  | .tick :: cs, s => endOfRun cs (tick s)
  | .step rand :: cs, s => if (hostStep rand s).runEnded then some (hostStep rand s) else endOfRun cs (hostStep rand s)

end Sys2Proof.Machine
end

