-- ==== Sys2Proof/Safety.lean ====
section
/-!
DEFINITION. The terms claims use: which fault information is legal (rules R200 to R204), the invariant of a machine
that was loaded (rules R25, R26, R52, R184), which registers an instruction writes (rules R21, R37), the sprite bit on
a cell (rules R101, R103), and where a store may go (rules R55, R59). The end of a run is in Machine/RunEnd.lean.
-/

namespace Sys2Proof.Machine

/-- A fault that some rule raises in the state `s` (rules R200 to R204). -/
def State.faultLegal (s : State) : Fault → Bool
  | .stackOverflow => s.sp == stackDepth
  | .stackUnderflow => s.sp == 0
  | .memoryOutOfRange a =>
    decide (memSize ≤ a ∧ a < 2 ^ 17) || (s.config.lowMemWrite == .fault && decide (a < progBase))
  | .keyOutOfRange v => decide (0xF < v.toNat) && s.config.keyIndexPolicy == .fault
  | .registerOutOfRange _ => false

/-- What RUN says about the rest of the state: a waiting machine's pc is still at its FX0A (rule R184), and a recorded
fault is one the rules raise. -/
def State.runLegal (s : State) : Bool :=
  match s.run with
  | .running => true
  | .awaitingKey x => decide (s.fetchFault = none) && decide (decode s.fetchWord = .instr (.ldVK x))
  | .faulted f => s.faultLegal f

/-- The invariant of a loaded machine: legal parameters, memory in canonical form inside its 4096 addresses, at most
16 frames, return addresses that a CALL can push, a pc that some instruction can set (rule R25), and a legal RUN. -/
abbrev State.Inv (s : State) : Prop :=
  s.config.wf ∧ Memory.wf s.config s.mem ∧ Memory.bounded s.mem ∧ s.sp ≤ stackDepth ∧
    (∀ a ∈ s.stack, a.toNat ≤ 0x1000) ∧ s.pc.toNat ≤ 0x10FE ∧ s.runLegal = true

/-- The registers an instruction writes: its own destinations and, for the flag producers and DXYN, VF (rules R21,
R37). -/
def writtenRegs : Instr → List Reg
  | .ldImm x _ | .addImm x _ | .rnd x _ => [x]
  | .ldReg x _ | .orReg x _ | .andReg x _ | .xorReg x _ => [x]
  | .addReg x _ | .sub x _ | .shr x _ | .subn x _ | .shl x _ => [x, flagReg]
  | .drw _ _ _ => [flagReg]
  | .ldVDt x | .ldVK x => [x]
  | .ldVMem x => (List.finRange 16).filter (· ≤ x)
  | .cls | .ret | .sys _ | .jp _ | .call _ | .seImm _ _ | .sneImm _ _ | .seReg _ _ | .sneReg _ _ => []
  | .ldI _ | .jpV0 _ | .skp _ | .sknp _ | .ldDtV _ | .ldStV _ | .addI _ | .ldF _ | .ldB _ | .ldMemV _ => []

/-- The sprite bit that falls on the cell `(px, py)` when DXYN draws `n` rows from I with its origin taken from VX and
VY: the row and column of the sprite are the wrapped distances from the origin, bit 7 is at column 0 (rules R101,
R103). -/
def State.spriteBit (s : State) (x y : Reg) (n : Nibble) (px py : Nat) : Bool :=
  let col := (px + screenW - (s.getV x).toNat % screenW) % screenW
  let row := (py + screenH - (s.getV y).toNat % screenH) % screenH
  decide (row < n.toNat) && decide (col < 8) && (s.readByte (s.i.toNat + row)).getLsbD (7 - col)

/-- The bytes `a .. a + n - 1` may be stored to: inside memory, and not below 0x200 where `LOW_MEM_WRITE` is `fault`
(rules R55, R59). -/
abbrev State.storable (s : State) (a n : Nat) : Prop :=
  a + n ≤ memSize ∧ (s.config.lowMemWrite = .ram ∨ progBase ≤ a)

end Sys2Proof.Machine
end

