-- ==== Sys2Proof/Certificates/Slice0/Obligations.lean ====
section
/-!
DEFINITION. The statements for the provers. Every one holds for every build parameter set `s.config` that its
hypotheses admit, and none rests on a value of the free constant `Config.entropy`.
-/

open Sys2Proof Sys2Proof.Machine

/-! ## Decoding and encoding -/

/-- Nine words written out from the encodings of rule R84, all of them spelled by the source, decode to the
instructions they stand for; a tenth, 0x5121, is unrecognized, which is the spec's decision D16
(notes/assumptions/19). -/
def Obligations.SpecWordsDecode : Prop :=
  decode 0b0110101010011101 = .instr (.ldImm 0xA 0x9D) ∧
  decode 0b0111000000000001 = .instr (.addImm 0x0 0x01) ∧
  decode 0b1000000100100100 = .instr (.addReg 0x1 0x2) ∧
  decode 0b1000000100100101 = .instr (.sub 0x1 0x2) ∧
  decode 0b1010001100000000 = .instr (.ldI 0x300) ∧
  decode 0b1011001100000000 = .instr (.jpV0 0x300) ∧
  decode 0b1101000000010010 = .instr (.drw 0x0 0x1 0x2) ∧
  decode 0b1110000110011110 = .instr (.skp 0x1) ∧
  decode 0b1111001000110011 = .instr (.ldB 0x2) ∧
  decode 0b0101000100100001 = .unrecognized 0x5121

/-- Tier 3 (a): the decoder reads every well-formed instruction back from its word, and from its two bytes with
whatever follows them (rules R80, R83, R84, R88). -/
def Obligations.DecodeInvertsEncode : Prop :=
  ∀ i : Instr, i.wf = true →
    decode (encode i) = .instr i ∧ ∀ rest, decodeBytes (encodeBytes i ++ rest) = .ok (i, rest)

/-- Every word the decoder takes is the word of exactly the instruction it gives, and that one is well formed: no
bit of a word is dropped (rules R83, R93). -/
def Obligations.EncodeInvertsDecode : Prop :=
  ∀ (op : Word) (i : Instr), decode op = .instr i → i.wf = true ∧ encode i = op

/-- The decoder, written from rule R83's cases, gives every one of the 65536 words the row that the table of rule R84
gives it by mask and match, and no row where the table gives none (rule R93). -/
def Obligations.DecoderAgreesWithOpcodeTable : Prop :=
  ∀ op : Word, (decode op).mnemonic? = tableMnemonic op

/-- No word matches two rows, but for 00E0 and 00EE, which SYS's row takes in and the exact rows win (rule R93). -/
def Obligations.OpcodeRowsAreDisjoint : Prop :=
  ∀ (op : Word) (r q : OpcodeRow), r ∈ opcodeTable → q ∈ opcodeTable → r.hits op = true → q.hits op = true →
    r = q ∨ ((op = 0x00E0 ∨ op = 0x00EE) ∧ (r.mnemonic = "SYS" ∨ q.mnemonic = "SYS"))

/-- The unrecognized words are exactly those of rule R85 (the spec's decision D16, notes/assumptions/19). -/
def Obligations.UnrecognizedWordsExactly : Prop :=
  ∀ op : Word, (decode op = .unrecognized op ↔
    ((opH op = 0x5 ∨ opH op = 0x9) ∧ opN op ≠ 0x0) ∨
    (opH op = 0x8 ∧ opN op ∈ [0x8#4, 0x9#4, 0xA#4, 0xB#4, 0xC#4, 0xD#4, 0xF#4]) ∨
    (opH op = 0xE ∧ opNN op ∉ [0x9E#8, 0xA1#8]) ∨
    (opH op = 0xF ∧ opNN op ∉ [0x07#8, 0x0A#8, 0x15#8, 0x18#8, 0x1E#8, 0x29#8, 0x33#8, 0x55#8, 0x65#8])) ∧
    ∀ op' : Word, decode op = .unrecognized op' → op' = op

/-! ## Fetch and step -/

/-- A running machine whose pc has two bytes of memory runs the instruction that those bytes decode to: the step is
`exec` of it, with nothing added (rules R54, R89). -/
def Obligations.StepRunsFetchedInstruction : Prop :=
  ∀ (s : State) (i : Instr), s.run = .running → s.pc.toNat + 1 < 4096 →
    decode (s.readByte s.pc.toNat ++ s.readByte (s.pc.toNat + 1)) = .instr i → step s = exec i s

/-- R86: a word that no pattern matches only advances pc by 2; nothing else is written and no fault is raised. -/
def Obligations.UnrecognizedIsNoOp : Prop :=
  ∀ (s : State) (op : Word), s.run = .running → s.pc.toNat + 1 < 4096 →
    decode (s.readByte s.pc.toNat ++ s.readByte (s.pc.toNat + 1)) = .unrecognized op →
    step s = .next { s with pc := s.pc + 2 }

/-- A fetch whose first or second byte is outside memory faults at the lowest such address and changes nothing but RUN
(rules R55, R89; no wrap to 0x000 is the spec's decision D32, notes/assumptions/24). -/
def Obligations.FetchOutsideMemoryFaults : Prop :=
  ∀ s : State, s.run = .running → 4096 ≤ s.pc.toNat + 1 →
    step s = .next { s with
      run := .faulted (.memoryOutOfRange (if 4096 ≤ s.pc.toNat then s.pc.toNat else s.pc.toNat + 1)) }

/-- The opcode has the byte at pc in bits 15:8 (rule R54); a store of one byte changes the high byte of the word at pc
when its address is pc, the low byte when it is pc + 1, and no byte of it elsewhere (rules R54, R65). -/
def Obligations.FetchIsBigEndian : Prop :=
  ∀ (s : State) (a : Nat) (b : Byte), Memory.wf s.config s.mem →
    s.fetchWord = s.readByte s.pc.toNat ++ s.readByte (s.pc.toNat + 1) ∧
    (s.writeRun a [b]).fetchWord =
      (if a = s.pc.toNat then b else s.readByte s.pc.toNat) ++
      (if a = s.pc.toNat + 1 then b else s.readByte (s.pc.toNat + 1))

/-- The answers of a step in this model: it stops with a fault exactly when RUN already records that fault, and it
refuses nothing, whatever the word at pc. The spec's rule R89 returns Fault(f) from the faulting step too; that this
step answers the next state whose RUN records f, and only later ones the fault, is the model's own choice
(notes/assumptions/1), and that a recorded fault stays is the spec's decision D22. No word is refused because none
traps as illegal (rules R87, R209). -/
def Obligations.StepStopsOnlyWhenFaulted : Prop :=
  ∀ s : State, (∀ f, step s = .fault f ↔ s.run = .faulted f) ∧ ∀ r, step s ≠ .refused r

/-! ## Display -/

/-- 00E0 completes in every state: every cell is unlit, pc advances, nothing else changes (rule R100; that 00E0 is
clear screen is the spec's decision D36, notes/assumptions/7). -/
def Obligations.ClsClearsEveryCell : Prop :=
  decode 0x00E0 = .instr .cls ∧ ∀ s : State, ∃ t, exec .cls s = .next t ∧
    (∀ x y, x < 64 → y < 32 → cellAt t.screen x y = false) ∧ t = { s with screen := t.screen, pc := s.pc + 2 }

/-- DXYN completes when its sprite is in memory, N = 0 included: every cell is XORed with the sprite bit that falls on
it, the origin and each pixel wrapping; VF is 1 exactly when a lit cell was turned off, else 0; nothing else changes
(rules R101 to R103; the bit order and N = 0 are the spec's decision D17, notes/assumptions/20). -/
def Obligations.DrwXorsSpriteAndReportsCollision : Prop :=
  ∀ (s : State) (x y : Reg) (n : Nibble), n.toNat = 0 ∨ s.i.toNat + n.toNat ≤ 4096 →
    ∃ t, exec (.drw x y n) s = .next t ∧
      (∀ px py, px < 64 → py < 32 →
        cellAt t.screen px py = Bool.xor (cellAt s.screen px py) (s.spriteBit x y n px py)) ∧
      ((t.getV 0xF = 1 ∧ ∃ px py, px < 64 ∧ py < 32 ∧ cellAt s.screen px py = true ∧ s.spriteBit x y n px py = true) ∨
       (t.getV 0xF = 0 ∧ ∀ px py, px < 64 → py < 32 → s.spriteBit x y n px py = true → cellAt s.screen px py = false)) ∧
      (∀ r, r ≠ 0xF → t.getV r = s.getV r) ∧
      t = { s with v := t.v, screen := t.screen, pc := s.pc + 2 }

/-- DXYN with a row outside memory faults at the lowest such address, draws nothing and leaves VF (rules R101, R203;
all checks before any write is the spec's decision D8, notes/assumptions/13). -/
def Obligations.DrwOutsideMemoryFaults : Prop :=
  ∀ (s : State) (x y : Reg) (n : Nibble), 0 < n.toNat → 4096 < s.i.toNat + n.toNat →
    exec (.drw x y n) s = .next { s with run := .faulted (.memoryOutOfRange (max s.i.toNat 4096)) }

/-- Drawing a sprite again at the same place takes it off (rules R101, R102): once a DXYN has drawn, every state with
the screen, memory and I it left and the same origin in VX and VY draws it again, gives the screen of before the first
draw, and reports a collision exactly when the first draw had lit a cell. With X or Y = F the first draw may have
overwritten the origin; the premise on VX and VY then asks that it was put back. For N = 0, where nothing is drawn and
both clear VF, this is the spec's decision D17 (notes/assumptions/20). -/
def Obligations.DrawTwiceRestoresScreen : Prop :=
  ∀ (s t u : State) (x y : Reg) (n : Nibble), n.toNat = 0 ∨ s.i.toNat + n.toNat ≤ 4096 →
    exec (.drw x y n) s = .next t →
    u.screen = t.screen → u.mem = t.mem → u.config = t.config → u.i = t.i → u.getV x = s.getV x → u.getV y = s.getV y →
    ∃ w, exec (.drw x y n) u = .next w ∧ w.screen = s.screen ∧
      (w.getV 0xF = 1 ↔ ∃ px py, px < 64 ∧ py < 32 ∧ s.spriteBit x y n px py = true ∧ cellAt s.screen px py = false) ∧
      (w.getV 0xF = 0 ∨ w.getV 0xF = 1)

/-! ## Control flow -/

/-- 00EE with a frame saved: pc is the top of the stack, SP falls by one, the frames below stay, nothing else changes
(rule R110; that 00EE is return is the spec's decision D36, notes/assumptions/7). -/
def Obligations.RetPopsReturnAddress : Prop :=
  decode 0x00EE = .instr .ret ∧ ∀ s : State, 0 < s.sp → ∃ t, exec .ret s = .next t ∧
    s.stackEntry (s.sp - 1) = some t.pc ∧ t.sp = s.sp - 1 ∧ (∀ k, k < t.sp → t.stackEntry k = s.stackEntry k) ∧
    t = { s with stack := t.stack, pc := t.pc }

/-- 2NNN with fewer than 16 frames: the address after the CALL becomes the top frame, the frames below stay, pc is
NNN, nothing else changes (rule R112; pushing pc + 2 is the spec's decision D10, notes/assumptions/12). -/
def Obligations.CallPushesReturnAddress : Prop :=
  ∀ (s : State) (nnn : Addr12), s.sp < 16 → ∃ t, exec (.call nnn) s = .next t ∧
    t.stackEntry s.sp = some (s.pc + 2) ∧ t.sp = s.sp + 1 ∧ (∀ k, k < s.sp → t.stackEntry k = s.stackEntry k) ∧
    t.pc.toNat = nnn.toNat ∧ t = { s with stack := t.stack, pc := t.pc }

/-- 00EE with no frame underflows, 2NNN with 16 frames overflows, and either changes nothing but RUN (rules R110, R112,
R201, R202, R205; RUN as the record of a fault is the spec's decision D22, notes/assumptions/1). -/
def Obligations.StackBoundsFault : Prop :=
  (∀ s : State, s.sp = 0 → exec .ret s = .next { s with run := .faulted .stackUnderflow }) ∧
  (∀ (s : State) (nnn : Addr12), s.sp = 16 →
    exec (.call nnn) s = .next { s with run := .faulted .stackOverflow })

/-- RET after a CALL resumes after the CALL with the stack as it was, whatever ran between that left the stack alone
(rules R27, R110, R112; notes/assumptions/12). -/
def Obligations.CallThenRetResumes : Prop :=
  ∀ (s t u : State) (nnn : Addr12), s.sp < 16 → exec (.call nnn) s = .next t → u.stack = t.stack →
    ∃ w, exec .ret u = .next w ∧ w.pc = s.pc + 2 ∧ w.stack = s.stack

/-- 1NNN and BNNN complete in every state: pc is NNN, or NNN + V0 with no mask to 12 bits, and nothing else changes
(rules R111, R117; no mask is the spec's decision D11, notes/assumptions/17). -/
def Obligations.JumpsSetPc : Prop :=
  ∀ (s : State) (nnn : Addr12),
    (∃ t, exec (.jp nnn) s = .next t ∧ t.pc.toNat = nnn.toNat ∧ t = { s with pc := t.pc }) ∧
    (∃ t, exec (.jpV0 nnn) s = .next t ∧ t.pc.toNat = nnn.toNat + (s.getV 0x0).toNat ∧ t = { s with pc := t.pc })

/-- 3XNN, 4XNN, 5XY0 and 9XY0 complete in every state: each adds 4 to pc when its condition holds and 2 when it does
not, whatever the skipped word is, and changes nothing else (rules R113 to R116, R119). -/
def Obligations.SkipsAddFourOrTwo : Prop :=
  ∀ (s : State) (x y : Reg) (nn : Byte),
    exec (.seImm x nn) s = .next { s with pc := s.pc + (if s.getV x = nn then 4 else 2) } ∧
    exec (.sneImm x nn) s = .next { s with pc := s.pc + (if s.getV x = nn then 2 else 4) } ∧
    exec (.seReg x y) s = .next { s with pc := s.pc + (if s.getV x = s.getV y then 4 else 2) } ∧
    exec (.sneReg x y) s = .next { s with pc := s.pc + (if s.getV x = s.getV y then 2 else 4) }

/-- 0NNN other than 00E0 and 00EE only advances pc, whatever NNN is (rule R118; SYS as the 35th pattern is the spec's
decision D34, notes/assumptions/19). -/
def Obligations.SysOnlyAdvances : Prop :=
  ∀ (s : State) (nnn : Addr12),
    exec (.sys nnn) s = .next { s with pc := s.pc + 2 } ∧
    (nnn ≠ 0x0E0 → nnn ≠ 0x0EE → decode (0x0#4 ++ nnn) = .instr (.sys nnn))

/-- The end of a run (rule R249, the spec's decision D35, notes/assumptions/28). The end that a schedule reaches from a
state is the state after one of its steps at which RUN records a fault, or a running machine's word at pc is a jump to
itself, and no earlier step of the schedule reached such a state; the state before the first step is no end, and ticks
and changes of the latches reach none. It is final: whatever the host does next, nothing but the timers and the key
latches, which the host drives, changes (rules R111, R206); and a running machine at a jump to itself changes nothing
at any number of steps alone. -/
def Obligations.SelfJumpIsFinal : Prop :=
  (∀ (s e : State) (cmds : List HostCmd), endOfRun cmds s = some e ↔
    ∃ pre rand post, cmds = pre ++ .step rand :: post ∧ e = runSchedule (pre ++ [.step rand]) s ∧
      ((∃ f, e.run = .faulted f) ∨
        (e.run = .running ∧ e.pc.toNat + 1 < 4096 ∧ ∃ nnn, decode e.fetchWord = .instr (.jp nnn) ∧
          nnn.toNat = e.pc.toNat)) ∧
      ∀ pre' rand' rest, pre = pre' ++ .step rand' :: rest →
        (runSchedule (pre' ++ [.step rand']) s).runEnded = false) ∧
  (∀ (s e : State) (cmds next : List HostCmd), endOfRun cmds s = some e → runSchedule next e = { e with
    dt := (runSchedule next e).dt, st := (runSchedule next e).st, keys := (runSchedule next e).keys }) ∧
  (∀ s : State, s.run = .running → s.runEnded = true → ∀ n, Host.Core.run Sys2Proof.core n s = .next s)

/-! ## Immediates and entropy -/

/-- R130: 6XNN puts NN in VX, VF included as a destination, and changes nothing else but pc. -/
def Obligations.LdImmLoadsImmediate : Prop :=
  ∀ (s : State) (x : Reg) (nn : Byte), decode (0x6#4 ++ regBits x ++ nn) = .instr (.ldImm x nn) ∧
    ∃ t, exec (.ldImm x nn) s = .next t ∧ t.getV x = nn ∧ (∀ r, r ≠ x → t.getV r = s.getV r) ∧
      t = { s with v := t.v, pc := s.pc + 2 }

/-- R131: 7XNN adds NN to VX modulo 256; VF is written only as the destination, never as a flag. -/
def Obligations.AddImmWrapsWithoutFlag : Prop :=
  ∀ (s : State) (x : Reg) (nn : Byte), decode (0x7#4 ++ regBits x ++ nn) = .instr (.addImm x nn) ∧
    ∃ t, exec (.addImm x nn) s = .next t ∧ (t.getV x).toNat = ((s.getV x).toNat + nn.toNat) % 256 ∧
      (∀ r, r ≠ x → t.getV r = s.getV r) ∧ t = { s with v := t.v, pc := s.pc + 2 }

/-- CXNN stores one draw masked with NN, for every draw: the byte the host lined up, or the free value where it lined
up none. The draw is consumed even when NN = 0 (rule R132; the lined-up draws are the model's own form of the entropy
input, notes/assumptions/2). At the host port, a step with the byte rand on a running machine whose fetched word is
CXNN puts rand masked with NN in VX, for every rand, and changes nothing else but pc (rules R132, R220, R222; the
count of the draws and the lined-up draws, which it puts back, are the model's own, and one byte with each step is the
spec's decision D26: notes/assumptions/2). -/
def Obligations.RndStoresMaskedDraw : Prop :=
  ∀ (s : State) (x : Reg) (nn : Byte),
    (∃ t r, exec (.rnd x nn) s = .next t ∧ t.getV x = r &&& nn ∧
      (∀ b rest, s.draws = b :: rest → r = b ∧ t.draws = rest) ∧
      (s.draws = [] → r = Config.entropy s.drawn ∧ t.draws = []) ∧
      t.drawn = s.drawn + 1 ∧ (∀ q, q ≠ x → t.getV q = s.getV q) ∧
      t = { s with v := t.v, pc := s.pc + 2, draws := t.draws, drawn := t.drawn }) ∧
    (∀ rand : Byte, s.run = .running → s.pc.toNat + 1 < 4096 → decode s.fetchWord = .instr (.rnd x nn) →
      ∃ t, transact (.step rand) s = t ∧ t.getV x = rand &&& nn ∧ (∀ q, q ≠ x → t.getV q = s.getV q) ∧
        t = { s with v := t.v, pc := s.pc + 2, drawn := s.drawn + 1 })

/-- The entropy byte of a step changes nothing unless the step runs a CXNN (rule R222, whose form of the entropy port is
the spec's decision D26, notes/assumptions/2). -/
def Obligations.EntropyReachesOnlyRnd : Prop :=
  ∀ (s : State) (p q : Byte), (s.run = .running → ∀ x nn, decode s.fetchWord ≠ .instr (.rnd x nn)) →
    transact (.step p) s = transact (.step q) s

/-! ## Register ALU -/

/-- 8XY0 to 8XY3 complete in every state: VX is VY, or the bitwise OR, AND or XOR of VX and VY; VF changes only as the
destination (rules R142 to R145; no flag is the spec's decision D14, the minor codes its D12: notes/assumptions/7,
18). -/
def Obligations.LogicOpsLeaveVf : Prop :=
  ∀ (s : State) (x y : Reg),
    (∃ t, exec (.ldReg x y) s = .next t ∧ t.getV x = s.getV y ∧
      (∀ r, r ≠ x → t.getV r = s.getV r) ∧ t = { s with v := t.v, pc := s.pc + 2 }) ∧
    (∃ t, exec (.orReg x y) s = .next t ∧
      (∀ k, (t.getV x).getLsbD k = ((s.getV x).getLsbD k || (s.getV y).getLsbD k)) ∧
      (∀ r, r ≠ x → t.getV r = s.getV r) ∧ t = { s with v := t.v, pc := s.pc + 2 }) ∧
    (∃ t, exec (.andReg x y) s = .next t ∧
      (∀ k, (t.getV x).getLsbD k = ((s.getV x).getLsbD k && (s.getV y).getLsbD k)) ∧
      (∀ r, r ≠ x → t.getV r = s.getV r) ∧ t = { s with v := t.v, pc := s.pc + 2 }) ∧
    (∃ t, exec (.xorReg x y) s = .next t ∧
      (∀ k, (t.getV x).getLsbD k = Bool.xor ((s.getV x).getLsbD k) ((s.getV y).getLsbD k)) ∧
      (∀ r, r ≠ x → t.getV r = s.getV r) ∧ t = { s with v := t.v, pc := s.pc + 2 })

/-- 8XY4 completes in every state: VX is the sum modulo 256 and VF the carry; with X = F the flag stays (rules R141,
R146; the flag written last is the spec's decision D15, notes/assumptions/18). -/
def Obligations.AddRegSumAndCarry : Prop :=
  ∀ (s : State) (x y : Reg), ∃ t, exec (.addReg x y) s = .next t ∧
    (x ≠ 0xF → (t.getV x).toNat = ((s.getV x).toNat + (s.getV y).toNat) % 256) ∧
    (t.getV 0xF).toNat = (if 256 ≤ (s.getV x).toNat + (s.getV y).toNat then 1 else 0) ∧
    (∀ r, r ≠ x → r ≠ 0xF → t.getV r = s.getV r) ∧ t = { s with v := t.v, pc := s.pc + 2 }

/-- 8XY5 and 8XY7 complete in every state: VX is the difference modulo 256, of VX - VY or VY - VX, and VF is 1 exactly
when nothing was borrowed; with X = F the flag stays (rules R141, R147, R149; notes/assumptions/18). -/
def Obligations.SubtractionsAndNoBorrow : Prop :=
  ∀ (s : State) (x y : Reg),
    (∃ t, exec (.sub x y) s = .next t ∧
      (x ≠ 0xF → (t.getV x).toNat = ((s.getV x).toNat + 256 - (s.getV y).toNat) % 256) ∧
      (t.getV 0xF).toNat = (if (s.getV y).toNat ≤ (s.getV x).toNat then 1 else 0) ∧
      (∀ r, r ≠ x → r ≠ 0xF → t.getV r = s.getV r) ∧ t = { s with v := t.v, pc := s.pc + 2 }) ∧
    (∃ t, exec (.subn x y) s = .next t ∧
      (x ≠ 0xF → (t.getV x).toNat = ((s.getV y).toNat + 256 - (s.getV x).toNat) % 256) ∧
      (t.getV 0xF).toNat = (if (s.getV x).toNat ≤ (s.getV y).toNat then 1 else 0) ∧
      (∀ r, r ≠ x → r ≠ 0xF → t.getV r = s.getV r) ∧ t = { s with v := t.v, pc := s.pc + 2 })

/-- 8XY6 and 8XYE complete in every state: VX is the operand shifted by one bit with a zero in, and VF the bit shifted
out; the operand is VX or VY as `SHIFT_SOURCE` says; with X = F the flag stays (rules R141, R148, R150; the operand
is the spec's decision D13, notes/assumptions/15, 18). -/
def Obligations.ShiftsByOneBit : Prop :=
  ∀ (s : State) (x y : Reg) (src : Byte),
    (s.config.shiftSource = .vx → src = s.getV x) → (s.config.shiftSource = .vy → src = s.getV y) →
    (∃ t, exec (.shr x y) s = .next t ∧ (x ≠ 0xF → (t.getV x).toNat = src.toNat / 2) ∧
      (t.getV 0xF).toNat = src.toNat % 2 ∧
      (∀ r, r ≠ x → r ≠ 0xF → t.getV r = s.getV r) ∧ t = { s with v := t.v, pc := s.pc + 2 }) ∧
    (∃ t, exec (.shl x y) s = .next t ∧ (x ≠ 0xF → (t.getV x).toNat = src.toNat * 2 % 256) ∧
      (t.getV 0xF).toNat = src.toNat / 128 ∧
      (∀ r, r ≠ x → r ≠ 0xF → t.getV r = s.getV r) ∧ t = { s with v := t.v, pc := s.pc + 2 })

/-! ## I and memory -/

/-- R160: ANNN sets I to NNN, at most 0xFFF, and changes nothing else but pc. -/
def Obligations.LdISetsAddress : Prop :=
  ∀ (s : State) (nnn : Addr12), decode (0xA#4 ++ nnn) = .instr (.ldI nnn) ∧
    ∃ t, exec (.ldI nnn) s = .next t ∧ t.i.toNat = nnn.toNat ∧ t.i.toNat ≤ 0xFFF ∧
      t = { s with i := t.i, pc := s.pc + 2 }

/-- FX1E adds VX to I modulo 2^16 with no flag and no fault; FX29 sets I to the glyph address of VX with no mask
(rules R161, R162; the 16-bit wrap is the spec's decision D7, VX > 15 its D20: notes/assumptions/17, 22). -/
def Obligations.IndexArithmetic : Prop :=
  ∀ (s : State) (x : Reg),
    (∃ t, exec (.addI x) s = .next t ∧ t.i.toNat = (s.i.toNat + (s.getV x).toNat) % 65536 ∧
      t = { s with i := t.i, pc := s.pc + 2 }) ∧
    (∃ t, exec (.ldF x) s = .next t ∧ (s.config.wf → t.i.toNat = s.config.fontBase + 5 * (s.getV x).toNat) ∧
      t = { s with i := t.i, pc := s.pc + 2 })

/-- FX33 on storable addresses puts the hundreds, tens and units of VX at I, I+1, I+2; every other byte, I and every
register stay (rules R59, R163; I unchanged is the spec's decision D21, notes/assumptions/23). -/
def Obligations.LdBStoresDecimalDigits : Prop :=
  ∀ (s : State) (x : Reg), Memory.wf s.config s.mem → s.storable s.i.toNat 3 → ∃ t, exec (.ldB x) s = .next t ∧
    (t.readByte s.i.toNat).toNat = (s.getV x).toNat / 100 ∧
    (t.readByte (s.i.toNat + 1)).toNat = (s.getV x).toNat / 10 % 10 ∧
    (t.readByte (s.i.toNat + 2)).toNat = (s.getV x).toNat % 10 ∧
    (∀ a, a < s.i.toNat ∨ s.i.toNat + 3 ≤ a → t.readByte a = s.readByte a) ∧
    t = { s with mem := t.mem, pc := s.pc + 2 }

/-- FX55 on storable addresses stores V0 to VX, inclusive, at I to I+X; every other byte, I and every register stay
(rules R59, R164; notes/assumptions/23). -/
def Obligations.LdMemVDumpsRegisters : Prop :=
  ∀ (s : State) (x : Reg), Memory.wf s.config s.mem → s.storable s.i.toNat (x.val + 1) → ∃ t, exec (.ldMemV x) s = .next t ∧
    (∀ r : Reg, r ≤ x → t.readByte (s.i.toNat + r.val) = s.getV r) ∧
    (∀ a, a < s.i.toNat ∨ s.i.toNat + x.val < a → t.readByte a = s.readByte a) ∧
    t = { s with mem := t.mem, pc := s.pc + 2 }

/-- FX65 with its bytes in memory loads V0 to VX, inclusive, from I to I+X; the registers above X, I and every byte
stay (rule R165; notes/assumptions/23). -/
def Obligations.LdVMemLoadsRegisters : Prop :=
  ∀ (s : State) (x : Reg), s.i.toNat + x.val < 4096 → ∃ t, exec (.ldVMem x) s = .next t ∧
    (∀ r : Reg, r ≤ x → t.getV r = s.readByte (s.i.toNat + r.val)) ∧ (∀ r : Reg, x < r → t.getV r = s.getV r) ∧
    t = { s with v := t.v, pc := s.pc + 2 }

/-- FX33, FX55 and FX65 that would touch an address outside memory fault at the lowest such address and write nothing
(rules R55, R163 to R165; notes/assumptions/13). -/
def Obligations.MemoryMovesOutsideMemoryFault : Prop :=
  ∀ (s : State) (x : Reg),
    (4096 ≤ s.i.toNat + 2 →
      exec (.ldB x) s = .next { s with run := .faulted (.memoryOutOfRange (max s.i.toNat 4096)) }) ∧
    (4096 ≤ s.i.toNat + x.val →
      exec (.ldMemV x) s = .next { s with run := .faulted (.memoryOutOfRange (max s.i.toNat 4096)) } ∧
      exec (.ldVMem x) s = .next { s with run := .faulted (.memoryOutOfRange (max s.i.toNat 4096)) })

/-- Under `LOW_MEM_WRITE = fault`, FX33 and FX55 below 0x200 fault at their first address and write nothing (rules
R59, R163, R164; the parameter is the spec's decision D9, notes/assumptions/14). -/
def Obligations.LowStoresFaultUnderPolicy : Prop :=
  ∀ (s : State) (x : Reg), s.config.lowMemWrite = .fault → s.i.toNat < 0x200 →
    exec (.ldB x) s = .next { s with run := .faulted (.memoryOutOfRange s.i.toNat) } ∧
    exec (.ldMemV x) s = .next { s with run := .faulted (.memoryOutOfRange s.i.toNat) }

/-- A register dump and a later load from the same I restore V0 to VX, whatever happened to the registers between, if
memory was left alone (rules R164, R165). -/
def Obligations.DumpThenLoadRestores : Prop :=
  ∀ (s t u : State) (x : Reg), Memory.wf s.config s.mem → s.storable s.i.toNat (x.val + 1) →
    exec (.ldMemV x) s = .next t →
    u.mem = t.mem → u.config = t.config → u.i = t.i →
    ∃ w, exec (.ldVMem x) u = .next w ∧ ∀ r : Reg, r ≤ x → w.getV r = s.getV r

/-! ## Keys and timers -/

/-- EX9E and EXA1 complete whenever VX names a latch, or `KEY_INDEX_POLICY` masks it: they add 4 or 2 to pc by the level
of that latch, which they leave as it is (rules R180 to R182; the policy is the spec's decision D19,
notes/assumptions/16). -/
def Obligations.KeySkipsTestLatch : Prop :=
  ∀ (s : State) (x : Reg), (s.getV x).toNat ≤ 15 ∨ s.config.keyIndexPolicy = .mask →
    exec (.skp x) s = .next { s with pc := s.pc + (if s.keyPressed ((s.getV x).toNat % 16) then 4 else 2) } ∧
    exec (.sknp x) s = .next { s with pc := s.pc + (if s.keyPressed ((s.getV x).toNat % 16) then 2 else 4) }

/-- Under `KEY_INDEX_POLICY = fault`, EX9E and EXA1 with VX > 15 fault with VX and change nothing but RUN (rules R180,
R204; notes/assumptions/16). -/
def Obligations.KeySkipsFaultAboveFifteen : Prop :=
  ∀ (s : State) (x : Reg), s.config.keyIndexPolicy = .fault → 15 < (s.getV x).toNat →
    exec (.skp x) s = .next { s with run := .faulted (.keyOutOfRange (s.getV x)) } ∧
    exec (.sknp x) s = .next { s with run := .faulted (.keyOutOfRange (s.getV x)) }

/-- R183: FX07 copies DT into VX, VF included as a destination, and changes nothing else but pc. -/
def Obligations.LdVDtReadsDelayTimer : Prop :=
  ∀ (s : State) (x : Reg), decode (0xF#4 ++ regBits x ++ 0x07#8) = .instr (.ldVDt x) ∧
    ∃ t, exec (.ldVDt x) s = .next t ∧ t.getV x = s.dt ∧ (∀ r, r ≠ x → t.getV r = s.getV r) ∧
      t = { s with v := t.v, pc := s.pc + 2 }

/-- R186 and R187: FX15 copies VX into DT, FX18 copies VX into ST, and neither changes anything else but pc; VX = 0
stops the delay timer, since no tick then moves it. -/
def Obligations.TimersAreSetFromRegister : Prop :=
  ∀ (s : State) (x : Reg),
    decode (0xF#4 ++ regBits x ++ 0x15#8) = .instr (.ldDtV x) ∧
    exec (.ldDtV x) s = .next { s with dt := s.getV x, pc := s.pc + 2 } ∧
    (s.getV x = 0 → (tick { s with dt := s.getV x, pc := s.pc + 2 }).dt = 0) ∧
    decode (0xF#4 ++ regBits x ++ 0x18#8) = .instr (.ldStV x) ∧
    exec (.ldStV x) s = .next { s with st := s.getV x, pc := s.pc + 2 }

/-- FX0A with a key pressed completes in the same step: the lowest pressed index goes to VX, and nothing else changes
but pc (rule R184; level and lowest index are the spec's decision D18, notes/assumptions/21). -/
def Obligations.KeyWaitTakesLowestPressed : Prop :=
  ∀ (s : State) (x : Reg) (k : Nat), k < 16 → s.keyPressed k = true → (∀ j, j < k → s.keyPressed j = false) →
    ∃ t, exec (.ldVK x) s = .next t ∧ (t.getV x).toNat = k ∧ (∀ r, r ≠ x → t.getV r = s.getV r) ∧
      t = { s with v := t.v, pc := s.pc + 2 }

/-- FX0A with no key pressed enters the wait for register X and changes nothing else, pc included (rule R184). -/
def Obligations.KeyWaitBeginsWithoutKey : Prop :=
  ∀ (s : State) (x : Reg), (∀ k, k < 16 → s.keyPressed k = false) →
    exec (.ldVK x) s = .next { s with run := .awaitingKey x }

/-- A waiting machine stays exactly as it is for any number of steps with no key pressed; once the host drives latches
with a key pressed, the next step stores the lowest pressed index in the target, advances pc by 2, runs again, and
does nothing more (rule R185; notes/assumptions/21). -/
def Obligations.WaitPersistsUntilKey : Prop :=
  ∀ (s : State) (x : Reg), s.run = .awaitingKey x →
    ((∀ k, k < 16 → s.keyPressed k = false) → ∀ n, Host.Core.run Sys2Proof.core n s = .next s) ∧
    (∀ (keys : BitVec 16) (k : Nat), k < 16 → keys.getLsbD k = true → (∀ j, j < k → keys.getLsbD j = false) →
      ∃ t, step (setKeys keys s) = .next t ∧ (t.getV x).toNat = k ∧ (∀ r, r ≠ x → t.getV r = s.getV r) ∧
        t = { s with v := t.v, pc := s.pc + 2, run := .running, keys := keys })

/-- Any number of ticks takes that much off DT and off ST, clamped at 0, whatever RUN is, and changes nothing else
(rule R223; the tick as a transaction of its own is the spec's decision D3, notes/assumptions/9). -/
def Obligations.TicksDecayBothTimers : Prop :=
  ∀ (s : State) (n : Nat), ∃ t, runSchedule (List.replicate n .tick) s = t ∧
    t.dt.toNat = s.dt.toNat - n ∧ t.st.toNat = s.st.toNat - n ∧ t = { s with dt := t.dt, st := t.st }

/-- The key latches are the host's alone: over a schedule that drives them nowhere they stay (rule R31), and the next
`set_keys` replaces all 16 at once and changes nothing else (rule R221). That it replaces all 16, as a transaction
between steps, is the spec's decision D25 (notes/assumptions/5). -/
def Obligations.LatchesChangeOnlyBySetKeys : Prop :=
  ∀ (s : State) (cmds : List HostCmd) (keys : BitVec 16), (∀ k, HostCmd.setKeys k ∉ cmds) →
    (runSchedule cmds s).keys = s.keys ∧
    runSchedule (cmds ++ [.setKeys keys]) s = { runSchedule cmds s with keys := keys }

/-- No step reads ST (rule R29): whatever ST holds, a step gives the same state but for ST. -/
def Obligations.SoundTimerIsNeverRead : Prop :=
  ∀ (s t : State) (b : Byte), step s = .next t →
    ∃ c, step { s with st := b } = .next { t with st := c }

/-- Of the instructions, only EX9E, EXA1 and FX0A read the key latches (rules R31, R37). The awaiting-key step, which
runs no instruction, reads them too and is no part of this statement. -/
def Obligations.KeysReachOnlyKeyInstructions : Prop :=
  ∀ (i : Instr) (s t : State) (keys : BitVec 16), (∀ x, i ≠ .skp x) → (∀ x, i ≠ .sknp x) → (∀ x, i ≠ .ldVK x) →
    exec i s = .next t → exec i { s with keys := keys } = .next { t with keys := keys }

/-! ## The whole machine -/

/-- No instruction writes a register but its own destinations and, for the flag producers and DXYN, VF (rules R21,
R37; that 8XY0 to 8XY3 are no flag producers is the spec's decision D14, notes/assumptions/18). -/
def Obligations.RegistersOutsideDestinationsStay : Prop :=
  ∀ (i : Instr) (s t : State) (r : Reg), exec i s = .next t → r ∉ writtenRegs i → t.getV r = s.getV r

/-- Each other piece of state is written by its own instructions and by no other: memory by FX33 and FX55, the screen
by 00E0 and DXYN, the stack by 2NNN and 00EE, I by ANNN, FX1E and FX29, DT by FX15, ST by FX18, the latches by none
(rule R37; that FX33, FX55 and FX65 leave I is the spec's decision D21, notes/assumptions/23); the parameters by none
(rule R33); and the model's own fields of the entropy input, `draws` and `drawn`, by CXNN alone (rule R222,
notes/assumptions/2). -/
def Obligations.StateIsWrittenOnlyByItsWriters : Prop :=
  ∀ (i : Instr) (s t : State), exec i s = .next t →
    t.keys = s.keys ∧ t.config = s.config ∧
    ((∀ x, i ≠ .ldB x) → (∀ x, i ≠ .ldMemV x) → t.mem = s.mem ∧ ∀ a, t.readByte a = s.readByte a) ∧
    (i ≠ .cls → (∀ x y n, i ≠ .drw x y n) → t.screen = s.screen) ∧
    (i ≠ .ret → (∀ nnn, i ≠ .call nnn) → t.stack = s.stack) ∧
    ((∀ nnn, i ≠ .ldI nnn) → (∀ x, i ≠ .addI x) → (∀ x, i ≠ .ldF x) → t.i = s.i) ∧
    ((∀ x, i ≠ .ldDtV x) → t.dt = s.dt) ∧ ((∀ x, i ≠ .ldStV x) → t.st = s.st) ∧
    ((∀ x nn, i ≠ .rnd x nn) → t.draws = s.draws ∧ t.drawn = s.drawn)

/-- What pc becomes (rule R90), for every instruction but the four transfers: pc + 2; or pc + 4, for a skip only; or
unchanged, when RUN has become a fault or, for FX0A only, the wait. -/
def Obligations.PcAdvancesByRule : Prop :=
  ∀ (i : Instr) (s t : State), i ≠ .ret → (∀ nnn, i ≠ .jp nnn) → (∀ nnn, i ≠ .jpV0 nnn) → (∀ nnn, i ≠ .call nnn) →
    exec i s = .next t →
    (t.run = s.run ∧ t.pc = s.pc + 2) ∨
    (t.run = s.run ∧ t.pc = s.pc + 4 ∧
      ((∃ x nn, i = .seImm x nn ∨ i = .sneImm x nn) ∨ (∃ x y, i = .seReg x y ∨ i = .sneReg x y) ∨
        ∃ x, i = .skp x ∨ i = .sknp x)) ∨
    (t.pc = s.pc ∧ ((∃ f, t.run = .faulted f) ∨ ∃ x, i = .ldVK x ∧ t.run = .awaitingKey x))

/-- Faults are precise: a step that ends faulted, for whatever instruction or fetch, changed nothing but RUN (rule
R205; all-or-nothing is the spec's decision D8, notes/assumptions/13). -/
def Obligations.FaultsArePrecise : Prop :=
  ∀ (s t : State) (f : Fault), step s = .next t → t.run = .faulted f → t = { s with run := .faulted f }

/-- A fault is terminal under every schedule of host transactions: RUN keeps it, and nothing but the timers and the
key latches, which the host drives, ever changes (rules R206, R223, R225; notes/assumptions/1). -/
def Obligations.FaultIsTerminal : Prop :=
  ∀ (cmds : List HostCmd) (s : State) (f : Fault), s.run = .faulted f →
    step s = .fault f ∧ (runSchedule cmds s).run = .faulted f ∧ (runSchedule cmds s).result = .fault f ∧
    runSchedule cmds s = { s with
      dt := (runSchedule cmds s).dt, st := (runSchedule cmds s).st, keys := (runSchedule cmds s).keys }

/-! ## Construction and the invariant -/

/-- Construction and load with legal parameters and at most 3584 bytes (rules R36, R240, R242): the ROM stands at
0x200, the font at FONT_BASE, every other byte of memory is zero, pc is 0x200, the stack is empty, every register of
V0 to VF is RESET_V, I is RESET_I, DT is RESET_DT, ST is RESET_ST, every cell is unlit, RUN is Running, every latch is
false, the invariant holds, and the model's own draws are none lined up and none taken (notes/assumptions/2). The
values of V, I, DT, ST, SCREEN, the stack and RUN are the spec's decision D4 (notes/assumptions/4), those of the
latches its D25 (notes/assumptions/5). -/
def Obligations.LoadPlacesRomAndFont : Prop :=
  ∀ (c : Config) (rom : List Byte), c.wf → rom.length ≤ 3584 → ∃ s, load c rom = .ok s ∧
    (∀ j, j < rom.length → s.readByte (0x200 + j) = rom.getD j 0) ∧
    (∀ j, j < 80 → s.readByte (c.fontBase + j) = c.fontTable.getD j 0) ∧
    (∀ a, (a < c.fontBase ∨ c.fontBase + 80 ≤ a) → (a < 0x200 ∨ 0x200 + rom.length ≤ a) → s.readByte a = 0) ∧
    s.pc = 0x200 ∧ s.sp = 0 ∧ (∀ r, s.getV r = c.resetV) ∧ s.i = c.resetI ∧ s.dt = c.resetDT ∧ s.st = c.resetST ∧
    (∀ x y, x < 64 → y < 32 → cellAt s.screen x y = false) ∧ s.run = .running ∧
    (∀ k, k < 16 → s.keyPressed k = false) ∧ s.draws = [] ∧ s.drawn = 0 ∧ s.config = c ∧ s.Inv

/-- R208: a load is turned away exactly when the ROM is longer than 3584 bytes, with its length, and then makes no
machine. -/
def Obligations.LoadRejectsLongRom : Prop :=
  ∀ (c : Config) (rom : List Byte) (e : LoadError),
    load c rom = .error e ↔ 0x1000 < rom.length + 0x200 ∧ e = .romTooLarge rom.length

/-- The machine right after reset meets the invariant (rules R25, R26, R240; its RUN and its empty stack are the spec's
decision D4, notes/assumptions/4). -/
def Obligations.ResetMeetsInvariant : Prop := State.reset.Inv

/-- Tier 3 (b): from every state that meets the invariant, reached or not, a step gives a state that meets it. So
memory keeps its canonical form inside 4096 bytes, the stack its bound, pc its range (rule R25), a waiting machine its
FX0A (rule R184), and every recorded fault is one the rules raise (rules R22, R200). The bounds on pc and on the return
addresses are those of an unmasked BNNN and of CALL pushing pc + 2, the spec's decisions D11 and D10
(notes/assumptions/12, 17). -/
def Obligations.StepKeepsInvariant : Prop :=
  ∀ s t : State, s.Inv → step s = .next t → t.Inv

/-- Tier 3 (b) for every host transaction: from every state that meets the invariant, reached or not, one transaction
(a step with any entropy byte, a tick, any key latches) gives a state that meets it and leaves the parameters; so they
hold after every schedule from every load with legal parameters (rules R33, R220, R225, R240; the separate tick is the
spec's decision D3, notes/assumptions/9). -/
def Obligations.EveryScheduleKeepsInvariant : Prop :=
  (∀ (cmd : HostCmd) (s : State), s.Inv → (transact cmd s).Inv ∧ (transact cmd s).config = s.config) ∧
  ∀ (c : Config) (rom : List Byte) (s : State) (cmds : List HostCmd), c.wf → load c rom = .ok s →
    (runSchedule cmds s).Inv ∧ (runSchedule cmds s).config = c
end

