-- ==== Sys2Proof/Laws/Decode.lean ====
section
/-!
SUPPORT. The fields of the three word forms (rule R81), and how the decoder picks its case (rule R83).
-/

namespace Sys2Proof

/-! ### Fields of the word forms -/

variable (h : Nibble) (x y : Reg) (n : Nibble) (nn : Byte) (nnn : Addr12)

theorem getLsbD_wordXNN (k : Nat) : (wordXNN h x nn).getLsbD k =
    if k < 8 then nn.getLsbD k else if k < 12 then (regBits x).getLsbD (k - 8) else h.getLsbD (k - 12) := by
  simp only [wordXNN, BitVec.getLsbD_append]
  by_cases h1 : k < 8
  · simp [h1]
  · by_cases h2 : k < 12
    · simp [h1, h2, show k - 8 < 4 by omega]
    · simp [h1, h2, show ¬k - 8 < 4 by omega, show k - 8 - 4 = k - 12 by omega]

theorem getLsbD_wordXYN (k : Nat) : (wordXYN h x y n).getLsbD k =
    if k < 4 then n.getLsbD k else if k < 8 then (regBits y).getLsbD (k - 4)
    else if k < 12 then (regBits x).getLsbD (k - 8) else h.getLsbD (k - 12) := by
  simp only [wordXYN, BitVec.getLsbD_append]
  by_cases h0 : k < 4
  · simp [h0]
  · by_cases h1 : k < 8
    · simp [h0, h1, show k - 4 < 4 by omega]
    · by_cases h2 : k < 12
      · simp [h0, h1, h2, show ¬k - 4 < 4 by omega, show k - 4 - 4 = k - 8 by omega, show k - 8 < 4 by omega]
      · simp [h0, h1, h2, show ¬k - 4 < 4 by omega, show k - 4 - 4 = k - 8 by omega, show ¬k - 8 < 4 by omega,
          show k - 8 - 4 = k - 12 by omega]

theorem getLsbD_wordNNN (k : Nat) : (wordNNN h nnn).getLsbD k =
    if k < 12 then nnn.getLsbD k else h.getLsbD (k - 12) := by
  simp only [wordNNN, BitVec.getLsbD_append]

@[simp] theorem opH_wordXNN : opH (wordXNN h x nn) = h :=
  BitVec.eq_of_getLsbD_eq fun k hk => by
    simp [opH, getLsbD_wordXNN, hk, show ¬12 + k < 8 by omega]

@[simp] theorem opX_wordXNN : opX (wordXNN h x nn) = x := by
  have : (wordXNN h x nn).extractLsb' 8 4 = regBits x := BitVec.eq_of_getLsbD_eq fun k hk => by
    simp [getLsbD_wordXNN, hk, show 8 + k < 12 by omega]
  rw [opX, this]

@[simp] theorem opNN_wordXNN : opNN (wordXNN h x nn) = nn :=
  BitVec.eq_of_getLsbD_eq fun k hk => by simp [opNN, getLsbD_wordXNN, hk]

@[simp] theorem opH_wordXYN : opH (wordXYN h x y n) = h :=
  BitVec.eq_of_getLsbD_eq fun k hk => by
    simp [opH, getLsbD_wordXYN, hk, show ¬12 + k < 8 by omega, show ¬12 + k < 4 by omega]

@[simp] theorem opX_wordXYN : opX (wordXYN h x y n) = x := by
  have : (wordXYN h x y n).extractLsb' 8 4 = regBits x := BitVec.eq_of_getLsbD_eq fun k hk => by
    simp [getLsbD_wordXYN, hk, show 8 + k < 12 by omega, show ¬8 + k < 4 by omega]
  rw [opX, this]

@[simp] theorem opY_wordXYN : opY (wordXYN h x y n) = y := by
  have : (wordXYN h x y n).extractLsb' 4 4 = regBits y := BitVec.eq_of_getLsbD_eq fun k hk => by
    simp [getLsbD_wordXYN, hk, show 4 + k < 8 by omega]
  rw [opY, this]

@[simp] theorem opN_wordXYN : opN (wordXYN h x y n) = n :=
  BitVec.eq_of_getLsbD_eq fun k hk => by simp [opN, getLsbD_wordXYN, hk]

@[simp] theorem opH_wordNNN : opH (wordNNN h nnn) = h :=
  BitVec.eq_of_getLsbD_eq fun k hk => by simp [opH, getLsbD_wordNNN, hk]

@[simp] theorem opNNN_wordNNN : opNNN (wordNNN h nnn) = nnn :=
  BitVec.eq_of_getLsbD_eq fun k hk => by simp [opNNN, getLsbD_wordNNN, hk]

/-! ### A word is its fields -/

theorem wordXNN_fields (op : Word) : wordXNN (opH op) (opX op) (opNN op) = op :=
  BitVec.eq_of_getLsbD_eq fun k hk => by
    have hx : regBits (opX op) = op.extractLsb' 8 4 := rfl
    rw [getLsbD_wordXNN, hx]
    simp only [opH, opNN, BitVec.getLsbD_extractLsb']
    split
    · simp_all
    · split
      · simp only [show k - 8 < 4 by omega, decide_true, Bool.true_and]; congr 1; omega
      · simp only [show k - 12 < 4 by omega, decide_true, Bool.true_and]; congr 1; omega

theorem wordXYN_fields (op : Word) : wordXYN (opH op) (opX op) (opY op) (opN op) = op :=
  BitVec.eq_of_getLsbD_eq fun k hk => by
    have hx : regBits (opX op) = op.extractLsb' 8 4 := rfl
    have hy : regBits (opY op) = op.extractLsb' 4 4 := rfl
    rw [getLsbD_wordXYN, hx, hy]
    simp only [opH, opN, BitVec.getLsbD_extractLsb']
    split
    · simp_all
    · split
      · simp only [show k - 4 < 4 by omega, decide_true, Bool.true_and]; congr 1; omega
      · split
        · simp only [show k - 8 < 4 by omega, decide_true, Bool.true_and]; congr 1; omega
        · simp only [show k - 12 < 4 by omega, decide_true, Bool.true_and]; congr 1; omega

theorem wordNNN_fields (op : Word) : wordNNN (opH op) (opNNN op) = op :=
  BitVec.eq_of_getLsbD_eq fun k hk => by
    rw [getLsbD_wordNNN]
    simp only [opH, opNNN, BitVec.getLsbD_extractLsb']
    split
    · simp_all
    · simp only [show k - 12 < 4 by omega, decide_true, Bool.true_and]; congr 1; omega

/-! ### The decoder's cases (rule R83) -/

/-- The exact words have major opcode 0, so a word of another major opcode is decoded by it. -/
theorem decode_of_major (op : Word) (hm : opH op ≠ 0x0) : decode op = decodeMajor op := by
  rw [decode, if_neg, if_neg]
  · rintro rfl; exact hm (by decide)
  · rintro rfl; exact hm (by decide)

/-- A 0NNN word other than 00E0 and 00EE is a SYS (rule R118). -/
theorem decode_sys (h0 : nnn ≠ 0x0E0) (h1 : nnn ≠ 0x0EE) : decode (wordNNN 0x0 nnn) = .instr (.sys nnn) := by
  rw [decode, if_neg, if_neg]
  · simp [decodeMajor]
  · intro h; exact h1 ((opNNN_wordNNN _ _).symm.trans (congrArg opNNN h))
  · intro h; exact h0 ((opNNN_wordNNN _ _).symm.trans (congrArg opNNN h))

theorem decode_wordNNN (hm : h ≠ 0x0) : decode (wordNNN h nnn) = decodeMajor (wordNNN h nnn) :=
  decode_of_major _ (by simpa using hm)

theorem decode_wordXNN (hm : h ≠ 0x0) : decode (wordXNN h x nn) = decodeMajor (wordXNN h x nn) :=
  decode_of_major _ (by simpa using hm)

theorem decode_wordXYN (hm : h ≠ 0x0) : decode (wordXYN h x y n) = decodeMajor (wordXYN h x y n) :=
  decode_of_major _ (by simpa using hm)

/-- The two bytes of a word, put together again, are the word (rule R54). -/
theorem wordOfBytes_bytesOfWord (w : Word) : wordOfBytes (w.extractLsb' 8 8) (w.extractLsb' 0 8) = w :=
  BitVec.eq_of_getLsbD_eq fun k hk => by
    simp only [wordOfBytes, BitVec.getLsbD_append, BitVec.getLsbD_extractLsb']
    split
    · simp_all
    · simp only [show k - 8 < 8 by omega, decide_true, Bool.true_and]; congr 1; omega

end Sys2Proof
end

