-- ==== Sys2Proof/Laws/State.lean ====
section
/-!
SUPPORT. One lemma per field of State and per update of it, each true by `rfl`, so that no later proof unfolds a record
update; and how the accessors `getV`, `readByte`, `sp` and `keyPressed` pass through each update.
-/

namespace Sys2Proof.Machine

variable (s : State)

/-! ### setV -/

@[simp] theorem State.setV_config (x : Reg) (b : Byte) : (s.setV x b).config = s.config := rfl
@[simp] theorem State.setV_v (x : Reg) (b : Byte) : (s.setV x b).v = s.v.set x b := rfl
@[simp] theorem State.setV_i (x : Reg) (b : Byte) : (s.setV x b).i = s.i := rfl
@[simp] theorem State.setV_pc (x : Reg) (b : Byte) : (s.setV x b).pc = s.pc := rfl
@[simp] theorem State.setV_stack (x : Reg) (b : Byte) : (s.setV x b).stack = s.stack := rfl
@[simp] theorem State.setV_dt (x : Reg) (b : Byte) : (s.setV x b).dt = s.dt := rfl
@[simp] theorem State.setV_st (x : Reg) (b : Byte) : (s.setV x b).st = s.st := rfl
@[simp] theorem State.setV_screen (x : Reg) (b : Byte) : (s.setV x b).screen = s.screen := rfl
@[simp] theorem State.setV_keys (x : Reg) (b : Byte) : (s.setV x b).keys = s.keys := rfl
@[simp] theorem State.setV_run (x : Reg) (b : Byte) : (s.setV x b).run = s.run := rfl
@[simp] theorem State.setV_mem (x : Reg) (b : Byte) : (s.setV x b).mem = s.mem := rfl
@[simp] theorem State.setV_draws (x : Reg) (b : Byte) : (s.setV x b).draws = s.draws := rfl
@[simp] theorem State.setV_drawn (x : Reg) (b : Byte) : (s.setV x b).drawn = s.drawn := rfl
@[simp] theorem State.setV_readByte (x : Reg) (b : Byte) (d : Nat) : (s.setV x b).readByte d = s.readByte d := rfl
@[simp] theorem State.setV_sp (x : Reg) (b : Byte) : (s.setV x b).sp = s.sp := rfl
@[simp] theorem State.setV_keyPressed (x : Reg) (b : Byte) (d : Nat) : (s.setV x b).keyPressed d = s.keyPressed d := rfl

/-! ### setI -/

@[simp] theorem State.setI_config (a : Word) : (s.setI a).config = s.config := rfl
@[simp] theorem State.setI_v (a : Word) : (s.setI a).v = s.v := rfl
@[simp] theorem State.setI_i (a : Word) : (s.setI a).i = a := rfl
@[simp] theorem State.setI_pc (a : Word) : (s.setI a).pc = s.pc := rfl
@[simp] theorem State.setI_stack (a : Word) : (s.setI a).stack = s.stack := rfl
@[simp] theorem State.setI_dt (a : Word) : (s.setI a).dt = s.dt := rfl
@[simp] theorem State.setI_st (a : Word) : (s.setI a).st = s.st := rfl
@[simp] theorem State.setI_screen (a : Word) : (s.setI a).screen = s.screen := rfl
@[simp] theorem State.setI_keys (a : Word) : (s.setI a).keys = s.keys := rfl
@[simp] theorem State.setI_run (a : Word) : (s.setI a).run = s.run := rfl
@[simp] theorem State.setI_mem (a : Word) : (s.setI a).mem = s.mem := rfl
@[simp] theorem State.setI_draws (a : Word) : (s.setI a).draws = s.draws := rfl
@[simp] theorem State.setI_drawn (a : Word) : (s.setI a).drawn = s.drawn := rfl
@[simp] theorem State.setI_getV (a : Word) (y : Reg) : (s.setI a).getV y = s.getV y := rfl
@[simp] theorem State.setI_readByte (a : Word) (d : Nat) : (s.setI a).readByte d = s.readByte d := rfl
@[simp] theorem State.setI_sp (a : Word) : (s.setI a).sp = s.sp := rfl
@[simp] theorem State.setI_keyPressed (a : Word) (d : Nat) : (s.setI a).keyPressed d = s.keyPressed d := rfl

/-! ### jump -/

@[simp] theorem State.jump_config (a : Word) : (s.jump a).config = s.config := rfl
@[simp] theorem State.jump_v (a : Word) : (s.jump a).v = s.v := rfl
@[simp] theorem State.jump_i (a : Word) : (s.jump a).i = s.i := rfl
@[simp] theorem State.jump_pc (a : Word) : (s.jump a).pc = a := rfl
@[simp] theorem State.jump_stack (a : Word) : (s.jump a).stack = s.stack := rfl
@[simp] theorem State.jump_dt (a : Word) : (s.jump a).dt = s.dt := rfl
@[simp] theorem State.jump_st (a : Word) : (s.jump a).st = s.st := rfl
@[simp] theorem State.jump_screen (a : Word) : (s.jump a).screen = s.screen := rfl
@[simp] theorem State.jump_keys (a : Word) : (s.jump a).keys = s.keys := rfl
@[simp] theorem State.jump_run (a : Word) : (s.jump a).run = s.run := rfl
@[simp] theorem State.jump_mem (a : Word) : (s.jump a).mem = s.mem := rfl
@[simp] theorem State.jump_draws (a : Word) : (s.jump a).draws = s.draws := rfl
@[simp] theorem State.jump_drawn (a : Word) : (s.jump a).drawn = s.drawn := rfl
@[simp] theorem State.jump_getV (a : Word) (y : Reg) : (s.jump a).getV y = s.getV y := rfl
@[simp] theorem State.jump_readByte (a : Word) (d : Nat) : (s.jump a).readByte d = s.readByte d := rfl
@[simp] theorem State.jump_sp (a : Word) : (s.jump a).sp = s.sp := rfl
@[simp] theorem State.jump_keyPressed (a : Word) (d : Nat) : (s.jump a).keyPressed d = s.keyPressed d := rfl

/-! ### advance -/

@[simp] theorem State.advance_config : (s.advance).config = s.config := rfl
@[simp] theorem State.advance_v : (s.advance).v = s.v := rfl
@[simp] theorem State.advance_i : (s.advance).i = s.i := rfl
@[simp] theorem State.advance_pc : (s.advance).pc = s.pc + 2 := rfl
@[simp] theorem State.advance_stack : (s.advance).stack = s.stack := rfl
@[simp] theorem State.advance_dt : (s.advance).dt = s.dt := rfl
@[simp] theorem State.advance_st : (s.advance).st = s.st := rfl
@[simp] theorem State.advance_screen : (s.advance).screen = s.screen := rfl
@[simp] theorem State.advance_keys : (s.advance).keys = s.keys := rfl
@[simp] theorem State.advance_run : (s.advance).run = s.run := rfl
@[simp] theorem State.advance_mem : (s.advance).mem = s.mem := rfl
@[simp] theorem State.advance_draws : (s.advance).draws = s.draws := rfl
@[simp] theorem State.advance_drawn : (s.advance).drawn = s.drawn := rfl
@[simp] theorem State.advance_getV (y : Reg) : (s.advance).getV y = s.getV y := rfl
@[simp] theorem State.advance_readByte (d : Nat) : (s.advance).readByte d = s.readByte d := rfl
@[simp] theorem State.advance_sp : (s.advance).sp = s.sp := rfl
@[simp] theorem State.advance_keyPressed (d : Nat) : (s.advance).keyPressed d = s.keyPressed d := rfl

/-! ### skipIf -/

@[simp] theorem State.skipIf_config (c : Bool) : (s.skipIf c).config = s.config := rfl
@[simp] theorem State.skipIf_v (c : Bool) : (s.skipIf c).v = s.v := rfl
@[simp] theorem State.skipIf_i (c : Bool) : (s.skipIf c).i = s.i := rfl
@[simp] theorem State.skipIf_pc (c : Bool) : (s.skipIf c).pc = if c then s.pc + 4 else s.pc + 2 := rfl
@[simp] theorem State.skipIf_stack (c : Bool) : (s.skipIf c).stack = s.stack := rfl
@[simp] theorem State.skipIf_dt (c : Bool) : (s.skipIf c).dt = s.dt := rfl
@[simp] theorem State.skipIf_st (c : Bool) : (s.skipIf c).st = s.st := rfl
@[simp] theorem State.skipIf_screen (c : Bool) : (s.skipIf c).screen = s.screen := rfl
@[simp] theorem State.skipIf_keys (c : Bool) : (s.skipIf c).keys = s.keys := rfl
@[simp] theorem State.skipIf_run (c : Bool) : (s.skipIf c).run = s.run := rfl
@[simp] theorem State.skipIf_mem (c : Bool) : (s.skipIf c).mem = s.mem := rfl
@[simp] theorem State.skipIf_draws (c : Bool) : (s.skipIf c).draws = s.draws := rfl
@[simp] theorem State.skipIf_drawn (c : Bool) : (s.skipIf c).drawn = s.drawn := rfl
@[simp] theorem State.skipIf_getV (c : Bool) (y : Reg) : (s.skipIf c).getV y = s.getV y := rfl
@[simp] theorem State.skipIf_readByte (c : Bool) (d : Nat) : (s.skipIf c).readByte d = s.readByte d := rfl
@[simp] theorem State.skipIf_sp (c : Bool) : (s.skipIf c).sp = s.sp := rfl
@[simp] theorem State.skipIf_keyPressed (c : Bool) (d : Nat) : (s.skipIf c).keyPressed d = s.keyPressed d := rfl

/-! ### setDt -/

@[simp] theorem State.setDt_config (b : Byte) : (s.setDt b).config = s.config := rfl
@[simp] theorem State.setDt_v (b : Byte) : (s.setDt b).v = s.v := rfl
@[simp] theorem State.setDt_i (b : Byte) : (s.setDt b).i = s.i := rfl
@[simp] theorem State.setDt_pc (b : Byte) : (s.setDt b).pc = s.pc := rfl
@[simp] theorem State.setDt_stack (b : Byte) : (s.setDt b).stack = s.stack := rfl
@[simp] theorem State.setDt_dt (b : Byte) : (s.setDt b).dt = b := rfl
@[simp] theorem State.setDt_st (b : Byte) : (s.setDt b).st = s.st := rfl
@[simp] theorem State.setDt_screen (b : Byte) : (s.setDt b).screen = s.screen := rfl
@[simp] theorem State.setDt_keys (b : Byte) : (s.setDt b).keys = s.keys := rfl
@[simp] theorem State.setDt_run (b : Byte) : (s.setDt b).run = s.run := rfl
@[simp] theorem State.setDt_mem (b : Byte) : (s.setDt b).mem = s.mem := rfl
@[simp] theorem State.setDt_draws (b : Byte) : (s.setDt b).draws = s.draws := rfl
@[simp] theorem State.setDt_drawn (b : Byte) : (s.setDt b).drawn = s.drawn := rfl
@[simp] theorem State.setDt_getV (b : Byte) (y : Reg) : (s.setDt b).getV y = s.getV y := rfl
@[simp] theorem State.setDt_readByte (b : Byte) (d : Nat) : (s.setDt b).readByte d = s.readByte d := rfl
@[simp] theorem State.setDt_sp (b : Byte) : (s.setDt b).sp = s.sp := rfl
@[simp] theorem State.setDt_keyPressed (b : Byte) (d : Nat) : (s.setDt b).keyPressed d = s.keyPressed d := rfl

/-! ### setSt -/

@[simp] theorem State.setSt_config (b : Byte) : (s.setSt b).config = s.config := rfl
@[simp] theorem State.setSt_v (b : Byte) : (s.setSt b).v = s.v := rfl
@[simp] theorem State.setSt_i (b : Byte) : (s.setSt b).i = s.i := rfl
@[simp] theorem State.setSt_pc (b : Byte) : (s.setSt b).pc = s.pc := rfl
@[simp] theorem State.setSt_stack (b : Byte) : (s.setSt b).stack = s.stack := rfl
@[simp] theorem State.setSt_dt (b : Byte) : (s.setSt b).dt = s.dt := rfl
@[simp] theorem State.setSt_st (b : Byte) : (s.setSt b).st = b := rfl
@[simp] theorem State.setSt_screen (b : Byte) : (s.setSt b).screen = s.screen := rfl
@[simp] theorem State.setSt_keys (b : Byte) : (s.setSt b).keys = s.keys := rfl
@[simp] theorem State.setSt_run (b : Byte) : (s.setSt b).run = s.run := rfl
@[simp] theorem State.setSt_mem (b : Byte) : (s.setSt b).mem = s.mem := rfl
@[simp] theorem State.setSt_draws (b : Byte) : (s.setSt b).draws = s.draws := rfl
@[simp] theorem State.setSt_drawn (b : Byte) : (s.setSt b).drawn = s.drawn := rfl
@[simp] theorem State.setSt_getV (b : Byte) (y : Reg) : (s.setSt b).getV y = s.getV y := rfl
@[simp] theorem State.setSt_readByte (b : Byte) (d : Nat) : (s.setSt b).readByte d = s.readByte d := rfl
@[simp] theorem State.setSt_sp (b : Byte) : (s.setSt b).sp = s.sp := rfl
@[simp] theorem State.setSt_keyPressed (b : Byte) (d : Nat) : (s.setSt b).keyPressed d = s.keyPressed d := rfl

/-! ### setRun -/

@[simp] theorem State.setRun_config (r : Run) : (s.setRun r).config = s.config := rfl
@[simp] theorem State.setRun_v (r : Run) : (s.setRun r).v = s.v := rfl
@[simp] theorem State.setRun_i (r : Run) : (s.setRun r).i = s.i := rfl
@[simp] theorem State.setRun_pc (r : Run) : (s.setRun r).pc = s.pc := rfl
@[simp] theorem State.setRun_stack (r : Run) : (s.setRun r).stack = s.stack := rfl
@[simp] theorem State.setRun_dt (r : Run) : (s.setRun r).dt = s.dt := rfl
@[simp] theorem State.setRun_st (r : Run) : (s.setRun r).st = s.st := rfl
@[simp] theorem State.setRun_screen (r : Run) : (s.setRun r).screen = s.screen := rfl
@[simp] theorem State.setRun_keys (r : Run) : (s.setRun r).keys = s.keys := rfl
@[simp] theorem State.setRun_run (r : Run) : (s.setRun r).run = r := rfl
@[simp] theorem State.setRun_mem (r : Run) : (s.setRun r).mem = s.mem := rfl
@[simp] theorem State.setRun_draws (r : Run) : (s.setRun r).draws = s.draws := rfl
@[simp] theorem State.setRun_drawn (r : Run) : (s.setRun r).drawn = s.drawn := rfl
@[simp] theorem State.setRun_getV (r : Run) (y : Reg) : (s.setRun r).getV y = s.getV y := rfl
@[simp] theorem State.setRun_readByte (r : Run) (d : Nat) : (s.setRun r).readByte d = s.readByte d := rfl
@[simp] theorem State.setRun_sp (r : Run) : (s.setRun r).sp = s.sp := rfl
@[simp] theorem State.setRun_keyPressed (r : Run) (d : Nat) : (s.setRun r).keyPressed d = s.keyPressed d := rfl

/-! ### setScreen -/

@[simp] theorem State.setScreen_config (scr : Screen) : (s.setScreen scr).config = s.config := rfl
@[simp] theorem State.setScreen_v (scr : Screen) : (s.setScreen scr).v = s.v := rfl
@[simp] theorem State.setScreen_i (scr : Screen) : (s.setScreen scr).i = s.i := rfl
@[simp] theorem State.setScreen_pc (scr : Screen) : (s.setScreen scr).pc = s.pc := rfl
@[simp] theorem State.setScreen_stack (scr : Screen) : (s.setScreen scr).stack = s.stack := rfl
@[simp] theorem State.setScreen_dt (scr : Screen) : (s.setScreen scr).dt = s.dt := rfl
@[simp] theorem State.setScreen_st (scr : Screen) : (s.setScreen scr).st = s.st := rfl
@[simp] theorem State.setScreen_screen (scr : Screen) : (s.setScreen scr).screen = scr := rfl
@[simp] theorem State.setScreen_keys (scr : Screen) : (s.setScreen scr).keys = s.keys := rfl
@[simp] theorem State.setScreen_run (scr : Screen) : (s.setScreen scr).run = s.run := rfl
@[simp] theorem State.setScreen_mem (scr : Screen) : (s.setScreen scr).mem = s.mem := rfl
@[simp] theorem State.setScreen_draws (scr : Screen) : (s.setScreen scr).draws = s.draws := rfl
@[simp] theorem State.setScreen_drawn (scr : Screen) : (s.setScreen scr).drawn = s.drawn := rfl
@[simp] theorem State.setScreen_getV (scr : Screen) (y : Reg) : (s.setScreen scr).getV y = s.getV y := rfl
@[simp] theorem State.setScreen_readByte (scr : Screen) (d : Nat) : (s.setScreen scr).readByte d = s.readByte d := rfl
@[simp] theorem State.setScreen_sp (scr : Screen) : (s.setScreen scr).sp = s.sp := rfl
@[simp] theorem State.setScreen_keyPressed (scr : Screen) (d : Nat) : (s.setScreen scr).keyPressed d = s.keyPressed d := rfl

/-! ### push -/

@[simp] theorem State.push_config (a : Word) : (s.push a).config = s.config := rfl
@[simp] theorem State.push_v (a : Word) : (s.push a).v = s.v := rfl
@[simp] theorem State.push_i (a : Word) : (s.push a).i = s.i := rfl
@[simp] theorem State.push_pc (a : Word) : (s.push a).pc = s.pc := rfl
@[simp] theorem State.push_stack (a : Word) : (s.push a).stack = a :: s.stack := rfl
@[simp] theorem State.push_dt (a : Word) : (s.push a).dt = s.dt := rfl
@[simp] theorem State.push_st (a : Word) : (s.push a).st = s.st := rfl
@[simp] theorem State.push_screen (a : Word) : (s.push a).screen = s.screen := rfl
@[simp] theorem State.push_keys (a : Word) : (s.push a).keys = s.keys := rfl
@[simp] theorem State.push_run (a : Word) : (s.push a).run = s.run := rfl
@[simp] theorem State.push_mem (a : Word) : (s.push a).mem = s.mem := rfl
@[simp] theorem State.push_draws (a : Word) : (s.push a).draws = s.draws := rfl
@[simp] theorem State.push_drawn (a : Word) : (s.push a).drawn = s.drawn := rfl
@[simp] theorem State.push_getV (a : Word) (y : Reg) : (s.push a).getV y = s.getV y := rfl
@[simp] theorem State.push_readByte (a : Word) (d : Nat) : (s.push a).readByte d = s.readByte d := rfl
@[simp] theorem State.push_keyPressed (a : Word) (d : Nat) : (s.push a).keyPressed d = s.keyPressed d := rfl

/-! ### popTo -/

@[simp] theorem State.popTo_config (rest : List Word) : (s.popTo rest).config = s.config := rfl
@[simp] theorem State.popTo_v (rest : List Word) : (s.popTo rest).v = s.v := rfl
@[simp] theorem State.popTo_i (rest : List Word) : (s.popTo rest).i = s.i := rfl
@[simp] theorem State.popTo_pc (rest : List Word) : (s.popTo rest).pc = s.pc := rfl
@[simp] theorem State.popTo_stack (rest : List Word) : (s.popTo rest).stack = rest := rfl
@[simp] theorem State.popTo_dt (rest : List Word) : (s.popTo rest).dt = s.dt := rfl
@[simp] theorem State.popTo_st (rest : List Word) : (s.popTo rest).st = s.st := rfl
@[simp] theorem State.popTo_screen (rest : List Word) : (s.popTo rest).screen = s.screen := rfl
@[simp] theorem State.popTo_keys (rest : List Word) : (s.popTo rest).keys = s.keys := rfl
@[simp] theorem State.popTo_run (rest : List Word) : (s.popTo rest).run = s.run := rfl
@[simp] theorem State.popTo_mem (rest : List Word) : (s.popTo rest).mem = s.mem := rfl
@[simp] theorem State.popTo_draws (rest : List Word) : (s.popTo rest).draws = s.draws := rfl
@[simp] theorem State.popTo_drawn (rest : List Word) : (s.popTo rest).drawn = s.drawn := rfl
@[simp] theorem State.popTo_getV (rest : List Word) (y : Reg) : (s.popTo rest).getV y = s.getV y := rfl
@[simp] theorem State.popTo_readByte (rest : List Word) (d : Nat) : (s.popTo rest).readByte d = s.readByte d := rfl
@[simp] theorem State.popTo_keyPressed (rest : List Word) (d : Nat) : (s.popTo rest).keyPressed d = s.keyPressed d := rfl

/-! ### writeRun -/

@[simp] theorem State.writeRun_config (a : Nat) (bs : List Byte) : (s.writeRun a bs).config = s.config := rfl
@[simp] theorem State.writeRun_v (a : Nat) (bs : List Byte) : (s.writeRun a bs).v = s.v := rfl
@[simp] theorem State.writeRun_i (a : Nat) (bs : List Byte) : (s.writeRun a bs).i = s.i := rfl
@[simp] theorem State.writeRun_pc (a : Nat) (bs : List Byte) : (s.writeRun a bs).pc = s.pc := rfl
@[simp] theorem State.writeRun_stack (a : Nat) (bs : List Byte) : (s.writeRun a bs).stack = s.stack := rfl
@[simp] theorem State.writeRun_dt (a : Nat) (bs : List Byte) : (s.writeRun a bs).dt = s.dt := rfl
@[simp] theorem State.writeRun_st (a : Nat) (bs : List Byte) : (s.writeRun a bs).st = s.st := rfl
@[simp] theorem State.writeRun_screen (a : Nat) (bs : List Byte) : (s.writeRun a bs).screen = s.screen := rfl
@[simp] theorem State.writeRun_keys (a : Nat) (bs : List Byte) : (s.writeRun a bs).keys = s.keys := rfl
@[simp] theorem State.writeRun_run (a : Nat) (bs : List Byte) : (s.writeRun a bs).run = s.run := rfl
@[simp] theorem State.writeRun_mem (a : Nat) (bs : List Byte) : (s.writeRun a bs).mem = Memory.writeRun s.config s.mem a bs := rfl
@[simp] theorem State.writeRun_draws (a : Nat) (bs : List Byte) : (s.writeRun a bs).draws = s.draws := rfl
@[simp] theorem State.writeRun_drawn (a : Nat) (bs : List Byte) : (s.writeRun a bs).drawn = s.drawn := rfl
@[simp] theorem State.writeRun_getV (a : Nat) (bs : List Byte) (y : Reg) : (s.writeRun a bs).getV y = s.getV y := rfl
@[simp] theorem State.writeRun_sp (a : Nat) (bs : List Byte) : (s.writeRun a bs).sp = s.sp := rfl
@[simp] theorem State.writeRun_keyPressed (a : Nat) (bs : List Byte) (d : Nat) : (s.writeRun a bs).keyPressed d = s.keyPressed d := rfl

/-! ### loadRegs -/

@[simp] theorem State.loadRegs_config (a : Nat) (x : Reg) : (s.loadRegs a x).config = s.config := rfl
@[simp] theorem State.loadRegs_i (a : Nat) (x : Reg) : (s.loadRegs a x).i = s.i := rfl
@[simp] theorem State.loadRegs_pc (a : Nat) (x : Reg) : (s.loadRegs a x).pc = s.pc := rfl
@[simp] theorem State.loadRegs_stack (a : Nat) (x : Reg) : (s.loadRegs a x).stack = s.stack := rfl
@[simp] theorem State.loadRegs_dt (a : Nat) (x : Reg) : (s.loadRegs a x).dt = s.dt := rfl
@[simp] theorem State.loadRegs_st (a : Nat) (x : Reg) : (s.loadRegs a x).st = s.st := rfl
@[simp] theorem State.loadRegs_screen (a : Nat) (x : Reg) : (s.loadRegs a x).screen = s.screen := rfl
@[simp] theorem State.loadRegs_keys (a : Nat) (x : Reg) : (s.loadRegs a x).keys = s.keys := rfl
@[simp] theorem State.loadRegs_run (a : Nat) (x : Reg) : (s.loadRegs a x).run = s.run := rfl
@[simp] theorem State.loadRegs_mem (a : Nat) (x : Reg) : (s.loadRegs a x).mem = s.mem := rfl
@[simp] theorem State.loadRegs_draws (a : Nat) (x : Reg) : (s.loadRegs a x).draws = s.draws := rfl
@[simp] theorem State.loadRegs_drawn (a : Nat) (x : Reg) : (s.loadRegs a x).drawn = s.drawn := rfl
@[simp] theorem State.loadRegs_readByte (a : Nat) (x : Reg) (d : Nat) : (s.loadRegs a x).readByte d = s.readByte d := rfl
@[simp] theorem State.loadRegs_sp (a : Nat) (x : Reg) : (s.loadRegs a x).sp = s.sp := rfl
@[simp] theorem State.loadRegs_keyPressed (a : Nat) (x : Reg) (d : Nat) : (s.loadRegs a x).keyPressed d = s.keyPressed d := rfl

/-! ### consumeDraw -/

@[simp] theorem State.consumeDraw_config : (s.consumeDraw).config = s.config := rfl
@[simp] theorem State.consumeDraw_v : (s.consumeDraw).v = s.v := rfl
@[simp] theorem State.consumeDraw_i : (s.consumeDraw).i = s.i := rfl
@[simp] theorem State.consumeDraw_pc : (s.consumeDraw).pc = s.pc := rfl
@[simp] theorem State.consumeDraw_stack : (s.consumeDraw).stack = s.stack := rfl
@[simp] theorem State.consumeDraw_dt : (s.consumeDraw).dt = s.dt := rfl
@[simp] theorem State.consumeDraw_st : (s.consumeDraw).st = s.st := rfl
@[simp] theorem State.consumeDraw_screen : (s.consumeDraw).screen = s.screen := rfl
@[simp] theorem State.consumeDraw_keys : (s.consumeDraw).keys = s.keys := rfl
@[simp] theorem State.consumeDraw_run : (s.consumeDraw).run = s.run := rfl
@[simp] theorem State.consumeDraw_mem : (s.consumeDraw).mem = s.mem := rfl
@[simp] theorem State.consumeDraw_draws : (s.consumeDraw).draws = s.draws.tail := rfl
@[simp] theorem State.consumeDraw_drawn : (s.consumeDraw).drawn = s.drawn + 1 := rfl
@[simp] theorem State.consumeDraw_getV (y : Reg) : (s.consumeDraw).getV y = s.getV y := rfl
@[simp] theorem State.consumeDraw_readByte (d : Nat) : (s.consumeDraw).readByte d = s.readByte d := rfl
@[simp] theorem State.consumeDraw_sp : (s.consumeDraw).sp = s.sp := rfl
@[simp] theorem State.consumeDraw_keyPressed (d : Nat) : (s.consumeDraw).keyPressed d = s.keyPressed d := rfl

/-! ### setResultAndFlag -/

@[simp] theorem State.setResultAndFlag_config (x : Reg) (b : Byte) (f : Bool) : (s.setResultAndFlag x b f).config = s.config := rfl
@[simp] theorem State.setResultAndFlag_v (x : Reg) (b : Byte) (f : Bool) : (s.setResultAndFlag x b f).v = (s.v.set x b).set flagReg (flagByte f) := rfl
@[simp] theorem State.setResultAndFlag_i (x : Reg) (b : Byte) (f : Bool) : (s.setResultAndFlag x b f).i = s.i := rfl
@[simp] theorem State.setResultAndFlag_pc (x : Reg) (b : Byte) (f : Bool) : (s.setResultAndFlag x b f).pc = s.pc := rfl
@[simp] theorem State.setResultAndFlag_stack (x : Reg) (b : Byte) (f : Bool) : (s.setResultAndFlag x b f).stack = s.stack := rfl
@[simp] theorem State.setResultAndFlag_dt (x : Reg) (b : Byte) (f : Bool) : (s.setResultAndFlag x b f).dt = s.dt := rfl
@[simp] theorem State.setResultAndFlag_st (x : Reg) (b : Byte) (f : Bool) : (s.setResultAndFlag x b f).st = s.st := rfl
@[simp] theorem State.setResultAndFlag_screen (x : Reg) (b : Byte) (f : Bool) : (s.setResultAndFlag x b f).screen = s.screen := rfl
@[simp] theorem State.setResultAndFlag_keys (x : Reg) (b : Byte) (f : Bool) : (s.setResultAndFlag x b f).keys = s.keys := rfl
@[simp] theorem State.setResultAndFlag_run (x : Reg) (b : Byte) (f : Bool) : (s.setResultAndFlag x b f).run = s.run := rfl
@[simp] theorem State.setResultAndFlag_mem (x : Reg) (b : Byte) (f : Bool) : (s.setResultAndFlag x b f).mem = s.mem := rfl
@[simp] theorem State.setResultAndFlag_draws (x : Reg) (b : Byte) (f : Bool) : (s.setResultAndFlag x b f).draws = s.draws := rfl
@[simp] theorem State.setResultAndFlag_drawn (x : Reg) (b : Byte) (f : Bool) : (s.setResultAndFlag x b f).drawn = s.drawn := rfl
@[simp] theorem State.setResultAndFlag_readByte (x : Reg) (b : Byte) (f : Bool) (d : Nat) : (s.setResultAndFlag x b f).readByte d = s.readByte d := rfl
@[simp] theorem State.setResultAndFlag_sp (x : Reg) (b : Byte) (f : Bool) : (s.setResultAndFlag x b f).sp = s.sp := rfl
@[simp] theorem State.setResultAndFlag_keyPressed (x : Reg) (b : Byte) (f : Bool) (d : Nat) : (s.setResultAndFlag x b f).keyPressed d = s.keyPressed d := rfl

/-! ### takeKey -/

@[simp] theorem State.takeKey_config (x : Reg) (k : Nat) : (s.takeKey x k).config = s.config := rfl
@[simp] theorem State.takeKey_v (x : Reg) (k : Nat) : (s.takeKey x k).v = s.v.set x (BitVec.ofNat 8 k) := rfl
@[simp] theorem State.takeKey_i (x : Reg) (k : Nat) : (s.takeKey x k).i = s.i := rfl
@[simp] theorem State.takeKey_pc (x : Reg) (k : Nat) : (s.takeKey x k).pc = s.pc + 2 := rfl
@[simp] theorem State.takeKey_stack (x : Reg) (k : Nat) : (s.takeKey x k).stack = s.stack := rfl
@[simp] theorem State.takeKey_dt (x : Reg) (k : Nat) : (s.takeKey x k).dt = s.dt := rfl
@[simp] theorem State.takeKey_st (x : Reg) (k : Nat) : (s.takeKey x k).st = s.st := rfl
@[simp] theorem State.takeKey_screen (x : Reg) (k : Nat) : (s.takeKey x k).screen = s.screen := rfl
@[simp] theorem State.takeKey_keys (x : Reg) (k : Nat) : (s.takeKey x k).keys = s.keys := rfl
@[simp] theorem State.takeKey_run (x : Reg) (k : Nat) : (s.takeKey x k).run = s.run := rfl
@[simp] theorem State.takeKey_mem (x : Reg) (k : Nat) : (s.takeKey x k).mem = s.mem := rfl
@[simp] theorem State.takeKey_draws (x : Reg) (k : Nat) : (s.takeKey x k).draws = s.draws := rfl
@[simp] theorem State.takeKey_drawn (x : Reg) (k : Nat) : (s.takeKey x k).drawn = s.drawn := rfl
@[simp] theorem State.takeKey_readByte (x : Reg) (k : Nat) (d : Nat) : (s.takeKey x k).readByte d = s.readByte d := rfl
@[simp] theorem State.takeKey_sp (x : Reg) (k : Nat) : (s.takeKey x k).sp = s.sp := rfl
@[simp] theorem State.takeKey_keyPressed (x : Reg) (k : Nat) (d : Nat) : (s.takeKey x k).keyPressed d = s.keyPressed d := rfl

/-! ### setKeys -/

@[simp] theorem setKeys_config (k : BitVec 16) : (setKeys k s).config = s.config := rfl
@[simp] theorem setKeys_v (k : BitVec 16) : (setKeys k s).v = s.v := rfl
@[simp] theorem setKeys_i (k : BitVec 16) : (setKeys k s).i = s.i := rfl
@[simp] theorem setKeys_pc (k : BitVec 16) : (setKeys k s).pc = s.pc := rfl
@[simp] theorem setKeys_stack (k : BitVec 16) : (setKeys k s).stack = s.stack := rfl
@[simp] theorem setKeys_dt (k : BitVec 16) : (setKeys k s).dt = s.dt := rfl
@[simp] theorem setKeys_st (k : BitVec 16) : (setKeys k s).st = s.st := rfl
@[simp] theorem setKeys_screen (k : BitVec 16) : (setKeys k s).screen = s.screen := rfl
@[simp] theorem setKeys_keys (k : BitVec 16) : (setKeys k s).keys = k := rfl
@[simp] theorem setKeys_run (k : BitVec 16) : (setKeys k s).run = s.run := rfl
@[simp] theorem setKeys_mem (k : BitVec 16) : (setKeys k s).mem = s.mem := rfl
@[simp] theorem setKeys_draws (k : BitVec 16) : (setKeys k s).draws = s.draws := rfl
@[simp] theorem setKeys_drawn (k : BitVec 16) : (setKeys k s).drawn = s.drawn := rfl
@[simp] theorem setKeys_getV (k : BitVec 16) (y : Reg) : (setKeys k s).getV y = s.getV y := rfl
@[simp] theorem setKeys_readByte (k : BitVec 16) (d : Nat) : (setKeys k s).readByte d = s.readByte d := rfl

/-! ### tick -/

@[simp] theorem tick_config : (tick s).config = s.config := rfl
@[simp] theorem tick_v : (tick s).v = s.v := rfl
@[simp] theorem tick_i : (tick s).i = s.i := rfl
@[simp] theorem tick_pc : (tick s).pc = s.pc := rfl
@[simp] theorem tick_stack : (tick s).stack = s.stack := rfl
@[simp] theorem tick_dt : (tick s).dt = decay s.dt := rfl
@[simp] theorem tick_st : (tick s).st = decay s.st := rfl
@[simp] theorem tick_screen : (tick s).screen = s.screen := rfl
@[simp] theorem tick_keys : (tick s).keys = s.keys := rfl
@[simp] theorem tick_run : (tick s).run = s.run := rfl
@[simp] theorem tick_mem : (tick s).mem = s.mem := rfl
@[simp] theorem tick_draws : (tick s).draws = s.draws := rfl
@[simp] theorem tick_drawn : (tick s).drawn = s.drawn := rfl
@[simp] theorem tick_getV (y : Reg) : (tick s).getV y = s.getV y := rfl
@[simp] theorem tick_readByte (d : Nat) : (tick s).readByte d = s.readByte d := rfl

/-! ### The register file -/

/-- A written register reads back, and every other one is unchanged (rule R20: no aliases). -/
@[simp] theorem State.getV_setV (x y : Reg) (b : Byte) : (s.setV x b).getV y = if y = x then b else s.getV y := by
  simp only [State.getV, State.setV, Fin.getElem_fin, Vector.getElem_set, Fin.ext_iff, eq_comm]

/-- The result goes to VX and the flag, last, to VF (rule R141). -/
@[simp] theorem State.getV_setResultAndFlag (x y : Reg) (b : Byte) (f : Bool) :
    (s.setResultAndFlag x b f).getV y = if y = flagReg then flagByte f else if y = x then b else s.getV y := by
  simp only [State.setResultAndFlag, State.getV_setV]

/-- The key goes to VX (rule R184). -/
@[simp] theorem State.getV_takeKey (x y : Reg) (k : Nat) :
    (s.takeKey x k).getV y = if y = x then BitVec.ofNat 8 k else s.getV y := by
  simp only [State.takeKey, State.advance_getV, State.getV_setV]

/-- Registers up to X are loaded, the others stay (rule R165). -/
@[simp] theorem State.getV_loadRegs (a : Nat) (x y : Reg) :
    (s.loadRegs a x).getV y = if y ≤ x then s.readByte (a + y.val) else s.getV y := by
  simp only [State.getV, State.loadRegs, Fin.getElem_fin, Vector.getElem_mapFinIdx, Fin.le_def]

/-- A register file is determined by its registers. -/
theorem regs_ext (v w : Vector Byte 16) (h : ∀ r : Reg, v[r] = w[r]) : v = w :=
  Vector.ext fun k hk => h ⟨k, hk⟩

end Sys2Proof.Machine
end

