-- ==== Sys2Proof/Laws/HostPort.lean ====
section
/-!
SUPPORT. How schedules and the end of a run take one transaction off (rules R225, R249), that neither ticks nor the key
latches decide whether a state can be an end, and what is left of a schedule after one that reached no end.
-/

namespace Sys2Proof.Machine

variable (s : State)

@[simp] theorem runSchedule_nil : runSchedule [] s = s := rfl

@[simp] theorem runSchedule_cons (c : HostCmd) (cs : List HostCmd) :
    runSchedule (c :: cs) s = runSchedule cs (transact c s) := rfl

theorem runSchedule_append (cs ds : List HostCmd) : runSchedule (cs ++ ds) s = runSchedule ds (runSchedule cs s) := by
  induction cs generalizing s with
  | nil => rfl
  | cons c cs ih => exact ih (transact c s)

@[simp] theorem runEnded_setKeys (k : BitVec 16) : (setKeys k s).runEnded = s.runEnded := rfl

@[simp] theorem runEnded_tick : (tick s).runEnded = s.runEnded := rfl

@[simp] theorem endOfRun_nil : endOfRun [] s = none := rfl

@[simp] theorem endOfRun_setKeys (k : BitVec 16) (cs : List HostCmd) :
    endOfRun (.setKeys k :: cs) s = endOfRun cs (setKeys k s) := rfl

@[simp] theorem endOfRun_tick (cs : List HostCmd) : endOfRun (.tick :: cs) s = endOfRun cs (tick s) := rfl

/-- A step that reaches an end gives the end, whatever follows it. -/
theorem endOfRun_step_ended (rand : Byte) (cs : List HostCmd) (h : (hostStep rand s).runEnded = true) :
    endOfRun (.step rand :: cs) s = some (hostStep rand s) := if_pos h

/-- A step that reaches none leaves the end to what follows it. -/
theorem endOfRun_step_going (rand : Byte) (cs : List HostCmd) (h : (hostStep rand s).runEnded = false) :
    endOfRun (.step rand :: cs) s = endOfRun cs (hostStep rand s) := by
  rw [endOfRun, h]
  rfl

/-- The end of a schedule is that of its first part, where that has one; else that of the rest from where it leads. -/
theorem endOfRun_append (cs ds : List HostCmd) :
    endOfRun (cs ++ ds) s = (endOfRun cs s).or (endOfRun ds (runSchedule cs s)) := by
  induction cs generalizing s with
  | nil => rfl
  | cons c cs ih =>
    cases c with
    | setKeys k => exact ih (setKeys k s)
    | tick => exact ih (tick s)
    | step rand =>
      rw [List.cons_append]
      cases h : (hostStep rand s).runEnded with
      | true => rw [endOfRun_step_ended _ _ _ h, endOfRun_step_ended _ _ _ h, Option.some_or]
      | false => rw [endOfRun_step_going _ _ _ h, endOfRun_step_going _ _ _ h, ih]; rfl

end Sys2Proof.Machine
end

