-- ==== Sys2Proof/Laws/Memory.lean ====
section
/-!
SUPPORT. The laws of memory: a read after a write, and that every operation keeps the canonical form and stays inside
the addresses it was given (rules R50, R55, R62).
-/

namespace Sys2Proof.Machine

variable (c : Config)

@[simp] theorem Memory.read_nil (a : Nat) : Memory.read c [] a = c.constructedByte a := rfl

theorem Memory.read_cons (k : Nat) (b : Byte) (m : Memory) (a : Nat) :
    Memory.read c ((k, b) :: m) a = if k = a then b else Memory.read c m a := rfl

/-- Below every listed address memory reads as constructed. -/
theorem Memory.read_of_lt (m : Memory) (a : Nat) (h : ∀ p ∈ m, a < p.1) : Memory.read c m a = c.constructedByte a := by
  induction m with
  | nil => rfl
  | cons p m ih =>
    rw [show p :: m = (p.1, p.2) :: m from rfl, Memory.read_cons,
      if_neg (by have := h p (by simp); omega), ih fun q hq => h q (by simp [hq])]

theorem Memory.read_put (m : Memory) (a d : Nat) (b : Byte) (h : Memory.read c m a = c.constructedByte a) :
    Memory.read c (Memory.put c m a b) d = if d = a then b else Memory.read c m d := by
  unfold Memory.put
  split
  · split
    · simp_all
    · rfl
  · simp [Memory.read_cons, eq_comm]

/-- A write is read back at its address and seen nowhere else (rule R62). -/
theorem Memory.read_write (m : Memory) (a d : Nat) (b : Byte) (h : m.Pairwise (fun p q => p.1 < q.1)) :
    Memory.read c (Memory.write c m a b) d = if d = a then b else Memory.read c m d := by
  induction m with
  | nil => exact Memory.read_put c [] a d b rfl
  | cons p m ih =>
    obtain ⟨k, w⟩ := p
    rw [List.pairwise_cons] at h
    unfold Memory.write
    split
    · refine Memory.read_put c _ a d b (Memory.read_of_lt c _ a ?_)
      intro q hq
      rcases List.mem_cons.1 hq with rfl | hq
      · assumption
      · have := h.1 q hq; simp only at this; omega
    · split
      · rename_i hak
        subst hak
        rw [Memory.read_put c m a d b (Memory.read_of_lt c m a h.1), Memory.read_cons]
        by_cases hd : d = a
        · rw [if_pos hd, if_pos hd]
        · rw [if_neg hd, if_neg hd, if_neg (Ne.symm hd)]
      · rw [Memory.read_cons, Memory.read_cons, ih h.2]
        split
        · rw [if_neg (by omega)]
        · rfl

theorem Memory.mem_put (m : Memory) (a : Nat) (b : Byte) (p : Host.Cell) (h : p ∈ Memory.put c m a b) :
    p ∈ m ∨ (p = (a, b) ∧ b ≠ c.constructedByte a) := by
  unfold Memory.put at h
  split at h
  · exact .inl h
  · rcases List.mem_cons.1 h with rfl | h
    · exact .inr ⟨rfl, by assumption⟩
    · exact .inl h

/-- A cell of the memory after a write is an old cell or the written one. -/
theorem Memory.mem_write (m : Memory) (a : Nat) (b : Byte) (p : Host.Cell) (h : p ∈ Memory.write c m a b) :
    p ∈ m ∨ (p = (a, b) ∧ b ≠ c.constructedByte a) := by
  induction m with
  | nil => exact Memory.mem_put c [] a b p h
  | cons q m ih =>
    obtain ⟨k, w⟩ := q
    unfold Memory.write at h
    split at h
    · exact Memory.mem_put c _ a b p h
    · split at h
      · rcases Memory.mem_put c _ a b p h with h | h
        · exact .inl (List.mem_cons_of_mem _ h)
        · exact .inr h
      · rcases List.mem_cons.1 h with rfl | h
        · exact .inl (by simp)
        · exact (ih h).imp_left (List.mem_cons_of_mem _)

theorem Memory.pairwise_put (m : Memory) (a : Nat) (b : Byte) (h : m.Pairwise (fun p q => p.1 < q.1))
    (ha : ∀ p ∈ m, a < p.1) : (Memory.put c m a b).Pairwise (fun p q => p.1 < q.1) := by
  unfold Memory.put
  split
  · exact h
  · exact List.pairwise_cons.2 ⟨ha, h⟩

theorem Memory.pairwise_write (m : Memory) (a : Nat) (b : Byte) (h : m.Pairwise (fun p q => p.1 < q.1)) :
    (Memory.write c m a b).Pairwise (fun p q => p.1 < q.1) := by
  induction m with
  | nil => exact Memory.pairwise_put c [] a b h (by simp)
  | cons q m ih =>
    obtain ⟨k, w⟩ := q
    have h' := List.pairwise_cons.1 h
    unfold Memory.write
    split
    · refine Memory.pairwise_put c _ a b h ?_
      intro p hp
      rcases List.mem_cons.1 hp with rfl | hp
      · assumption
      · have := h'.1 p hp; simp only at this; omega
    · split
      · rename_i hak
        subst hak
        exact Memory.pairwise_put c m a b h'.2 h'.1
      · refine List.pairwise_cons.2 ⟨?_, ih h'.2⟩
        intro p hp
        rcases Memory.mem_write c m a b p hp with hp | ⟨rfl, -⟩
        · exact h'.1 p hp
        · simp only; omega

/-- A write keeps the canonical form. -/
theorem Memory.write_wf (m : Memory) (a : Nat) (b : Byte) (h : Memory.wf c m) : Memory.wf c (Memory.write c m a b) := by
  refine ⟨Memory.pairwise_write c m a b h.1, fun p hp => ?_⟩
  rcases Memory.mem_write c m a b p hp with hp | ⟨rfl, hb⟩
  · exact h.2 p hp
  · exact hb

theorem Memory.write_bounded (m : Memory) (a : Nat) (b : Byte) (h : Memory.bounded m) (ha : a < memSize) :
    Memory.bounded (Memory.write c m a b) := by
  intro p hp
  rcases Memory.mem_write c m a b p hp with hp | ⟨rfl, -⟩
  · exact h p hp
  · exact ha

/-- A run of writes keeps the canonical form. -/
theorem Memory.writeRun_wf (bs : List Byte) (m : Memory) (a : Nat) (h : Memory.wf c m) :
    Memory.wf c (Memory.writeRun c m a bs) := by
  induction bs generalizing m a with
  | nil => exact h
  | cons b bs ih => exact ih _ _ (Memory.write_wf c m a b h)

/-- A run of writes inside memory lists no address outside it. -/
theorem Memory.writeRun_bounded (bs : List Byte) (m : Memory) (a : Nat) (h : Memory.bounded m)
    (ha : bs = [] ∨ a + bs.length ≤ memSize) : Memory.bounded (Memory.writeRun c m a bs) := by
  induction bs generalizing m a with
  | nil => exact h
  | cons b bs ih =>
    have ha' : a + (bs.length + 1) ≤ memSize := by simpa using ha
    exact ih _ _ (Memory.write_bounded c m a b h (by omega)) (.inr (by omega))

/-- A run of writes reads back byte by byte, and every other address reads as before. -/
theorem Memory.read_writeRun (bs : List Byte) (m : Memory) (a d : Nat) (h : m.Pairwise (fun p q => p.1 < q.1)) :
    Memory.read c (Memory.writeRun c m a bs) d =
      if a ≤ d ∧ d < a + bs.length then bs.getD (d - a) 0 else Memory.read c m d := by
  induction bs generalizing m a with
  | nil =>
    have : ¬(a ≤ d ∧ d < a + ([] : List Byte).length) := by simp
    rw [if_neg this]
    rfl
  | cons b bs ih =>
    rw [Memory.writeRun, ih _ _ (Memory.pairwise_write c m a b h), Memory.read_write c m a d b h, List.length_cons]
    by_cases hd : d = a
    · subst hd
      simp
    · by_cases h1 : a + 1 ≤ d ∧ d < a + 1 + bs.length
      · rw [if_pos h1, if_pos (by omega), show d - a = (d - (a + 1)) + 1 by omega, List.getD_cons_succ]
      · rw [if_neg h1, if_neg hd, if_neg (by omega)]

end Sys2Proof.Machine
end

