-- ==== Sys2Proof/Laws/Ops.lean ====
section
/-!
SUPPORT. One lemma per shared operation that says everything it can do: the bounds checks, entering a fault, a checked
effect, fetch, the key index, the lowest key, the stack, runs of bytes, and the step itself.
-/

namespace Sys2Proof.Machine

variable (s : State)

/-! ### Bounds checks (rules R55, R59) -/

/-- The check finds an address exactly when some byte lies outside memory, and then the lowest such. -/
theorem firstOutOfRange_eq (a n : Nat) :
    firstOutOfRange a n = if 0 < n ∧ memSize < a + n then some (max a memSize) else none := by
  unfold firstOutOfRange
  by_cases h : 0 < n ∧ memSize < a + n
  · rw [if_pos h, if_pos (by omega)]
  · rw [if_neg h, if_neg (by omega)]

theorem readFault_none_iff (a n : Nat) : readFault a n = none ↔ n = 0 ∨ a + n ≤ memSize := by
  rw [readFault, firstOutOfRange_eq]
  split <;> simp <;> omega

theorem readFault_of_out (a n : Nat) (hn : 0 < n) (h : memSize < a + n) :
    readFault a n = some (.memoryOutOfRange (max a memSize)) := by
  rw [readFault, firstOutOfRange_eq, if_pos ⟨hn, h⟩]
  rfl

/-- A read's fault names an address outside memory. -/
theorem readFault_some (a n : Nat) (f : Fault) (h : readFault a n = some f) :
    f = .memoryOutOfRange (max a memSize) ∧ 0 < n ∧ memSize < a + n := by
  rw [readFault, firstOutOfRange_eq] at h
  split at h
  · rename_i hn
    simp only [Option.map_some, Option.some.injEq] at h
    exact ⟨h.symm, hn⟩
  · simp at h

theorem storeFault_none_iff (a n : Nat) (hn : 0 < n) : storeFault s.config a n = none ↔ s.storable a n := by
  rw [storeFault, firstOutOfRange_eq, State.storable]
  by_cases h : memSize < a + n
  · rw [if_pos ⟨hn, h⟩]
    simp only [reduceCtorEq, false_iff]
    omega
  · rw [if_neg (by omega)]
    cases s.config.lowMemWrite <;> simp <;> omega

theorem storeFault_of_out (c : Config) (a n : Nat) (hn : 0 < n) (h : memSize < a + n) :
    storeFault c a n = some (.memoryOutOfRange (max a memSize)) := by
  rw [storeFault, firstOutOfRange_eq, if_pos ⟨hn, h⟩]

theorem storeFault_of_low (c : Config) (a n : Nat) (hn : 0 < n) (hl : a < progBase) (h : a + n ≤ memSize)
    (hc : c.lowMemWrite = .fault) : storeFault c a n = some (.memoryOutOfRange a) := by
  rw [storeFault, firstOutOfRange_eq, if_neg (by omega)]
  simp [hn, hl, hc]

/-- A store's fault names an address outside memory, or a low one under the policy. -/
theorem storeFault_some (c : Config) (a n : Nat) (f : Fault) (h : storeFault c a n = some f) :
    (f = .memoryOutOfRange (max a memSize) ∧ memSize < a + n) ∨
    (f = .memoryOutOfRange a ∧ a < progBase ∧ c.lowMemWrite = .fault) := by
  rw [storeFault, firstOutOfRange_eq] at h
  split at h
  · rename_i heq
    split at heq
    · simp only [Option.some.injEq] at h heq
      exact .inl ⟨by rw [← h, heq], by omega⟩
    · simp at heq
  · split at h
    · rename_i hl
      simp only [Option.some.injEq] at h
      exact .inr ⟨h.symm, hl.2⟩
    · simp at h

/-! ### Faults (rule R205) -/

/-- Entering a fault answers the same state with RUN recording it. -/
theorem raise_eq (f : Fault) : raise f s = .next { s with run := .faulted f } := rfl

@[simp] theorem checked_none (t : State) : checked s none t = .next t := rfl

@[simp] theorem checked_some (f : Fault) (t : State) :
    checked s (some f) t = .next { s with run := .faulted f } := rfl

/-- A checked effect either enters its fault with nothing else changed, or happens whole. -/
theorem checked_cases (fault? : Option Fault) (t u : State) (h : checked s fault? t = .next u) :
    (∃ f, fault? = some f ∧ u = { s with run := .faulted f }) ∨ (fault? = none ∧ u = t) := by
  cases fault? with
  | none => exact .inr ⟨rfl, (Host.Outcome.next.inj h).symm⟩
  | some f => exact .inl ⟨f, rfl, (Host.Outcome.next.inj h).symm⟩

/-! ### Skips and the stack (rules R110, R112, R119) -/

/-- A skip writes pc and nothing else. -/
theorem skipIf_eq (c : Bool) : s.skipIf c = { s with pc := s.pc + (if c then 4 else 2) } := by
  cases c <;> rfl

theorem stackEntry_top (a : Word) (rest : List Word) (h : s.stack = a :: rest) :
    s.stackEntry (s.sp - 1) = some a := by
  simp [State.stackEntry, State.sp, h]

/-- The entries below the top are those of the stack without its top. -/
theorem stackEntry_below (a : Word) (rest : List Word) (h : s.stack = a :: rest) (k : Nat) (hk : k < rest.length) :
    s.stackEntry k = rest.reverse[k]? := by
  rw [State.stackEntry, h, List.reverse_cons, List.getElem?_append_left (by simpa using hk)]

/-! ### Keys (rules R180, R184) -/

/-- The key index: VX itself up to 15; above, what the policy asks for. -/
theorem keyIndex_eq (c : Config) (v : Byte) :
    keyIndex c v = if v.toNat ≤ 15 ∨ c.keyIndexPolicy = .mask then .ok (v.toNat % 16) else .error (.keyOutOfRange v) := by
  unfold keyIndex
  by_cases h : v.toNat ≤ 15
  · rw [if_pos h, if_pos (.inl h), Nat.mod_eq_of_lt (by omega)]
  · rw [if_neg h]
    cases hp : c.keyIndexPolicy
    · simp [h]
    · have : v.toNat &&& 15 = v.toNat % 16 := Nat.and_two_pow_sub_one_eq_mod v.toNat 4
      simp [this]

/-- The lowest pressed key, when there is one. -/
theorem lowestKey_some_iff (k : Nat) :
    s.lowestKey = some k ↔ k < 16 ∧ s.keyPressed k = true ∧ ∀ j, j < k → s.keyPressed j = false := by
  rw [State.lowestKey, List.find?_range_eq_some]
  simp [and_left_comm]

theorem lowestKey_none_iff : s.lowestKey = none ↔ ∀ k, k < 16 → s.keyPressed k = false := by
  simp [State.lowestKey]

/-! ### Memory (rules R50, R62) -/

/-- A stored run reads back, and every other address reads as before. -/
theorem readByte_writeRun (a d : Nat) (bs : List Byte) (h : Memory.wf s.config s.mem) :
    (s.writeRun a bs).readByte d = if a ≤ d ∧ d < a + bs.length then bs.getD (d - a) 0 else s.readByte d :=
  Memory.read_writeRun s.config bs s.mem a d h.1

theorem regsTo_length (x : Reg) : (s.regsTo x).length = x.val + 1 := by
  have := x.isLt
  simp only [State.regsTo, List.length_take, Vector.length_toList]
  omega

/-- The run of registers that FX55 stores (rule R164). -/
theorem regsTo_getD (x : Reg) (k : Nat) (hk : k ≤ x.val) :
    (s.regsTo x).getD k 0 = s.getV ⟨k, by omega⟩ := by
  have := x.isLt
  simp only [State.regsTo, State.getV, List.getD_eq_getElem?_getD, List.getElem?_take, Fin.getElem_fin]
  rw [if_pos (by omega), Vector.getElem?_toList, Vector.getElem?_eq_getElem (by omega)]
  rfl

theorem readRun_length (a n : Nat) : (s.readRun a n).length = n := by simp [State.readRun]

theorem readRun_getD (a n k : Nat) (hk : k < n) : (s.readRun a n).getD k 0 = s.readByte (a + k) := by
  simp [State.readRun, List.getD_eq_getElem?_getD, hk]

/-! ### Fetch and step (rules R89, R185, R206) -/

theorem fetchFault_none_iff : s.fetchFault = none ↔ s.pc.toNat + 1 < memSize := by
  rw [State.fetchFault, readFault_none_iff]
  omega

theorem fetchWord_eq : s.fetchWord = s.readByte s.pc.toNat ++ s.readByte (s.pc.toNat + 1) := rfl

theorem step_faulted (f : Fault) (h : s.run = .faulted f) : step s = .fault f := by
  rw [step, h]

theorem step_awaiting (x : Reg) (h : s.run = .awaitingKey x) : step s = .next (awaitingKeyStep x s) := by
  rw [step, h]

theorem step_fetched (h : s.run = .running) (hf : s.fetchFault = none) : step s = execDecoded (decode s.fetchWord) s := by
  rw [step, h, hf]

theorem step_fetchFault (h : s.run = .running) (f : Fault) (hf : s.fetchFault = some f) :
    step s = .next { s with run := .faulted f } := by
  rw [step, h, hf]
  rfl

/-- Everything a step can do: answer the recorded fault, poll the keys, fault on its fetch, execute the fetched
instruction, or pass over an unrecognized word. -/
theorem step_cases :
    (∃ f, s.run = .faulted f ∧ step s = .fault f) ∨
    (∃ x, s.run = .awaitingKey x ∧ step s = .next (awaitingKeyStep x s)) ∨
    (∃ f, s.run = .running ∧ s.fetchFault = some f ∧ step s = .next { s with run := .faulted f }) ∨
    (∃ i, s.run = .running ∧ s.fetchFault = none ∧ decode s.fetchWord = .instr i ∧ step s = exec i s) ∨
    (∃ op, s.run = .running ∧ s.fetchFault = none ∧ decode s.fetchWord = .unrecognized op ∧ step s = .next s.advance) := by
  cases hr : s.run with
  | faulted f => exact .inl ⟨f, rfl, step_faulted s f hr⟩
  | awaitingKey x => exact .inr (.inl ⟨x, rfl, step_awaiting s x hr⟩)
  | running =>
    cases hf : s.fetchFault with
    | some f => exact .inr (.inr (.inl ⟨f, rfl, rfl, step_fetchFault s hr f hf⟩))
    | none =>
      cases hd : decode s.fetchWord with
      | instr i => exact .inr (.inr (.inr (.inl ⟨i, rfl, rfl, rfl, by rw [step_fetched s hr hf, hd]; rfl⟩)))
      | unrecognized op => exact .inr (.inr (.inr (.inr ⟨op, rfl, rfl, rfl, by rw [step_fetched s hr hf, hd]; rfl⟩)))

end Sys2Proof.Machine
end

