-- ==== Sys2Proof/Laws/Meanings.lean ====
section
/-!
SUPPORT. What any instruction can do, said once: it enters a legal fault with nothing else changed, it begins FX0A's
wait, or it completes with RUN as it was (rules R184, R205).
-/

namespace Sys2Proof.Machine

variable (s t : State)

/-- A fault of a memory read is one the rules raise. -/
theorem faultLegal_read (a n : Nat) (f : Fault) (ha : a < 2 ^ 16) (h : readFault a n = some f) :
    s.faultLegal f = true := by
  obtain ⟨rfl, -, -⟩ := readFault_some a n f h
  have h1 : memSize ≤ max a memSize ∧ max a memSize < 2 ^ 17 := by simp only [memSize]; omega
  simp only [State.faultLegal, h1, and_self, decide_true, Bool.true_or]

/-- A fault of a store is one the rules raise. -/
theorem faultLegal_store (a n : Nat) (f : Fault) (ha : a < 2 ^ 16) (h : storeFault s.config a n = some f) :
    s.faultLegal f = true := by
  have h1 : memSize ≤ max a memSize ∧ max a memSize < 2 ^ 17 := by simp only [memSize]; omega
  rcases storeFault_some s.config a n f h with ⟨rfl, -⟩ | ⟨rfl, hl, hc⟩
  · simp only [State.faultLegal, h1, and_self, decide_true, Bool.true_or]
  · simp [State.faultLegal, hl, hc]

/-- A checked effect enters a legal fault, or completes. -/
theorem checked_outcome (fault? : Option Fault) (u : State) (h : checked s fault? u = .next t)
    (hl : ∀ f, fault? = some f → s.faultLegal f = true) (hu : u.run = s.run) :
    (∃ f, t = { s with run := .faulted f } ∧ s.faultLegal f = true) ∨ (fault? = none ∧ t = u ∧ t.run = s.run) := by
  rcases checked_cases s fault? u t h with ⟨f, hf, rfl⟩ | ⟨hf, rfl⟩
  · exact .inl ⟨f, rfl, hl f hf⟩
  · exact .inr ⟨hf, rfl, hu⟩

/-- What any instruction can do in a state within the stack bound: enter a legal fault with nothing else changed, begin
FX0A's wait with nothing else changed, or complete with RUN as it was. -/
theorem exec_cases (i : Instr) (hs : s.sp ≤ stackDepth) (h : exec i s = .next t) :
    (∃ f, t = { s with run := .faulted f } ∧ s.faultLegal f = true) ∨
    (∃ x, i = .ldVK x ∧ t = { s with run := .awaitingKey x }) ∨ t.run = s.run := by
  have done (u : State) (h : Host.Outcome.next u = (.next t : Answer)) (hu : u.run = s.run) : t.run = s.run := by
    cases h
    exact hu
  cases i
  case ret =>
    simp only [exec, execRet] at h
    split at h
    · rename_i hn
      cases h
      exact .inl ⟨_, rfl, by simp [State.faultLegal, State.sp, hn]⟩
    · exact .inr (.inr (done _ h rfl))
  case call nnn =>
    have hl : ∀ f, (if stackDepth ≤ s.sp then some Fault.stackOverflow else none) = some f → s.faultLegal f = true := by
      intro f hf
      split at hf
      · cases hf
        simpa [State.faultLegal] using Nat.le_antisymm hs ‹_›
      · cases hf
    rcases checked_outcome s t _ _ h hl rfl with h | h
    · exact .inl h
    · exact .inr (.inr h.2.2)
  case drw x y n =>
    rcases checked_outcome s t _ _ h (fun f hf => faultLegal_read s _ _ f s.i.isLt hf) rfl with h | h
    · exact .inl h
    · exact .inr (.inr h.2.2)
  case ldB x =>
    rcases checked_outcome s t _ _ h (fun f hf => faultLegal_store s _ _ f s.i.isLt hf) rfl with h | h
    · exact .inl h
    · exact .inr (.inr h.2.2)
  case ldMemV x =>
    rcases checked_outcome s t _ _ h (fun f hf => faultLegal_store s _ _ f s.i.isLt hf) rfl with h | h
    · exact .inl h
    · exact .inr (.inr h.2.2)
  case ldVMem x =>
    rcases checked_outcome s t _ _ h (fun f hf => faultLegal_read s _ _ f s.i.isLt hf) rfl with h | h
    · exact .inl h
    · exact .inr (.inr h.2.2)
  case skp x =>
    simp only [exec, execSkp, keyIndex_eq] at h
    split at h
    · exact .inr (.inr (done _ h rfl))
    · rename_i heq
      split at heq
      · cases heq
      · rename_i hk
        cases heq
        cases h
        refine .inl ⟨_, rfl, ?_⟩
        cases hp : s.config.keyIndexPolicy <;> simp_all [State.faultLegal]
  case sknp x =>
    simp only [exec, execSknp, keyIndex_eq] at h
    split at h
    · exact .inr (.inr (done _ h rfl))
    · rename_i heq
      split at heq
      · cases heq
      · rename_i hk
        cases heq
        cases h
        refine .inl ⟨_, rfl, ?_⟩
        cases hp : s.config.keyIndexPolicy <;> simp_all [State.faultLegal]
  case ldVK x =>
    simp only [exec, execLdVK] at h
    split at h
    · exact .inr (.inr (done _ h rfl))
    · cases h
      exact .inr (.inl ⟨x, rfl, rfl⟩)
  all_goals exact .inr (.inr (done _ h rfl))

end Sys2Proof.Machine
end

