-- ==== Sys2Proof/Laws/PerInstr.lean ====
section
/-!
SUPPORT. Statements made once per instruction. `EncodeMatchesTable`: the word the encoder gives a well-formed
instruction matches, by mask and pattern, the row of the opcode table that carries its mnemonic (rules R84, R93).
-/

namespace Sys2Proof

/-! ### The three masks of the opcode table -/

theorem and_maskH (w : Word) : w &&& 0xF000 = wordNNN (opH w) 0 :=
  BitVec.eq_of_getLsbD_eq fun k hk => by
    rw [getLsbD_wordNNN]
    interval_cases k <;> simp [opH]

theorem and_maskHN (w : Word) : w &&& 0xF00F = wordXYN (opH w) 0 0 (opN w) :=
  BitVec.eq_of_getLsbD_eq fun k hk => by
    rw [getLsbD_wordXYN]
    interval_cases k <;> simp [opH, opN]

theorem and_maskHNN (w : Word) : w &&& 0xF0FF = wordXNN (opH w) 0 (opNN w) :=
  BitVec.eq_of_getLsbD_eq fun k hk => by
    rw [getLsbD_wordXNN]
    interval_cases k <;> simp [opH, opNN]

end Sys2Proof

namespace Sys2Proof.Laws.EncodeMatchesTable

/-- A row of the table carries the instruction's mnemonic and takes its word. -/
def Statement (i : Instr) : Prop :=
  i.wf = true → ∃ r ∈ opcodeTable, r.mnemonic = i.mnemonic ∧ r.hits (encode i) = true

/-- A row given by its place in the table. -/
theorem of_row (i : Instr) (r : OpcodeRow) (hr : r ∈ opcodeTable) (hm : r.mnemonic = i.mnemonic)
    (hh : encode i &&& r.mask = r.pattern) : Statement i :=
  fun _ => ⟨r, hr, hm, by simp [OpcodeRow.hits, hh]⟩

theorem cls : Statement .cls :=
  of_row _ ⟨"CLS", 0x00E0, 0xFFFF⟩ (by decide) rfl <| by decide

theorem ret : Statement .ret :=
  of_row _ ⟨"RET", 0x00EE, 0xFFFF⟩ (by decide) rfl <| by decide

theorem sys (nnn : Addr12) : Statement (.sys nnn) :=
  of_row _ ⟨"SYS", 0x0000, 0xF000⟩ (by decide) rfl <| by
    rw [encode, and_maskH, opH_wordNNN]
    decide

theorem jp (nnn : Addr12) : Statement (.jp nnn) :=
  of_row _ ⟨"JP", 0x1000, 0xF000⟩ (by decide) rfl <| by
    rw [encode, and_maskH, opH_wordNNN]
    decide

theorem call (nnn : Addr12) : Statement (.call nnn) :=
  of_row _ ⟨"CALL", 0x2000, 0xF000⟩ (by decide) rfl <| by
    rw [encode, and_maskH, opH_wordNNN]
    decide

theorem seImm (x : Reg) (nn : Byte) : Statement (.seImm x nn) :=
  of_row _ ⟨"SE_IMM", 0x3000, 0xF000⟩ (by decide) rfl <| by
    rw [encode, and_maskH, opH_wordXNN]
    decide

theorem sneImm (x : Reg) (nn : Byte) : Statement (.sneImm x nn) :=
  of_row _ ⟨"SNE_IMM", 0x4000, 0xF000⟩ (by decide) rfl <| by
    rw [encode, and_maskH, opH_wordXNN]
    decide

theorem seReg (x y : Reg) : Statement (.seReg x y) :=
  of_row _ ⟨"SE_REG", 0x5000, 0xF00F⟩ (by decide) rfl <| by
    rw [encode, and_maskHN, opH_wordXYN, opN_wordXYN]
    decide

theorem ldImm (x : Reg) (nn : Byte) : Statement (.ldImm x nn) :=
  of_row _ ⟨"LD_IMM", 0x6000, 0xF000⟩ (by decide) rfl <| by
    rw [encode, and_maskH, opH_wordXNN]
    decide

theorem addImm (x : Reg) (nn : Byte) : Statement (.addImm x nn) :=
  of_row _ ⟨"ADD_IMM", 0x7000, 0xF000⟩ (by decide) rfl <| by
    rw [encode, and_maskH, opH_wordXNN]
    decide

theorem ldReg (x y : Reg) : Statement (.ldReg x y) :=
  of_row _ ⟨"LD_REG", 0x8000, 0xF00F⟩ (by decide) rfl <| by
    rw [encode, and_maskHN, opH_wordXYN, opN_wordXYN]
    decide

theorem orReg (x y : Reg) : Statement (.orReg x y) :=
  of_row _ ⟨"OR", 0x8001, 0xF00F⟩ (by decide) rfl <| by
    rw [encode, and_maskHN, opH_wordXYN, opN_wordXYN]
    decide

theorem andReg (x y : Reg) : Statement (.andReg x y) :=
  of_row _ ⟨"AND", 0x8002, 0xF00F⟩ (by decide) rfl <| by
    rw [encode, and_maskHN, opH_wordXYN, opN_wordXYN]
    decide

theorem xorReg (x y : Reg) : Statement (.xorReg x y) :=
  of_row _ ⟨"XOR", 0x8003, 0xF00F⟩ (by decide) rfl <| by
    rw [encode, and_maskHN, opH_wordXYN, opN_wordXYN]
    decide

theorem addReg (x y : Reg) : Statement (.addReg x y) :=
  of_row _ ⟨"ADD_REG", 0x8004, 0xF00F⟩ (by decide) rfl <| by
    rw [encode, and_maskHN, opH_wordXYN, opN_wordXYN]
    decide

theorem sub (x y : Reg) : Statement (.sub x y) :=
  of_row _ ⟨"SUB", 0x8005, 0xF00F⟩ (by decide) rfl <| by
    rw [encode, and_maskHN, opH_wordXYN, opN_wordXYN]
    decide

theorem shr (x y : Reg) : Statement (.shr x y) :=
  of_row _ ⟨"SHR", 0x8006, 0xF00F⟩ (by decide) rfl <| by
    rw [encode, and_maskHN, opH_wordXYN, opN_wordXYN]
    decide

theorem subn (x y : Reg) : Statement (.subn x y) :=
  of_row _ ⟨"SUBN", 0x8007, 0xF00F⟩ (by decide) rfl <| by
    rw [encode, and_maskHN, opH_wordXYN, opN_wordXYN]
    decide

theorem shl (x y : Reg) : Statement (.shl x y) :=
  of_row _ ⟨"SHL", 0x800E, 0xF00F⟩ (by decide) rfl <| by
    rw [encode, and_maskHN, opH_wordXYN, opN_wordXYN]
    decide

theorem sneReg (x y : Reg) : Statement (.sneReg x y) :=
  of_row _ ⟨"SNE_REG", 0x9000, 0xF00F⟩ (by decide) rfl <| by
    rw [encode, and_maskHN, opH_wordXYN, opN_wordXYN]
    decide

theorem ldI (nnn : Addr12) : Statement (.ldI nnn) :=
  of_row _ ⟨"LD_I", 0xA000, 0xF000⟩ (by decide) rfl <| by
    rw [encode, and_maskH, opH_wordNNN]
    decide

theorem jpV0 (nnn : Addr12) : Statement (.jpV0 nnn) :=
  of_row _ ⟨"JP_V0", 0xB000, 0xF000⟩ (by decide) rfl <| by
    rw [encode, and_maskH, opH_wordNNN]
    decide

theorem rnd (x : Reg) (nn : Byte) : Statement (.rnd x nn) :=
  of_row _ ⟨"RND", 0xC000, 0xF000⟩ (by decide) rfl <| by
    rw [encode, and_maskH, opH_wordXNN]
    decide

theorem drw (x y : Reg) (n : Nibble) : Statement (.drw x y n) :=
  of_row _ ⟨"DRW", 0xD000, 0xF000⟩ (by decide) rfl <| by
    rw [encode, and_maskH, opH_wordXYN]
    decide

theorem skp (x : Reg) : Statement (.skp x) :=
  of_row _ ⟨"SKP", 0xE09E, 0xF0FF⟩ (by decide) rfl <| by
    rw [encode, and_maskHNN, opH_wordXNN, opNN_wordXNN]
    decide

theorem sknp (x : Reg) : Statement (.sknp x) :=
  of_row _ ⟨"SKNP", 0xE0A1, 0xF0FF⟩ (by decide) rfl <| by
    rw [encode, and_maskHNN, opH_wordXNN, opNN_wordXNN]
    decide

theorem ldVDt (x : Reg) : Statement (.ldVDt x) :=
  of_row _ ⟨"LD_V_DT", 0xF007, 0xF0FF⟩ (by decide) rfl <| by
    rw [encode, and_maskHNN, opH_wordXNN, opNN_wordXNN]
    decide

theorem ldVK (x : Reg) : Statement (.ldVK x) :=
  of_row _ ⟨"LD_V_K", 0xF00A, 0xF0FF⟩ (by decide) rfl <| by
    rw [encode, and_maskHNN, opH_wordXNN, opNN_wordXNN]
    decide

theorem ldDtV (x : Reg) : Statement (.ldDtV x) :=
  of_row _ ⟨"LD_DT_V", 0xF015, 0xF0FF⟩ (by decide) rfl <| by
    rw [encode, and_maskHNN, opH_wordXNN, opNN_wordXNN]
    decide

theorem ldStV (x : Reg) : Statement (.ldStV x) :=
  of_row _ ⟨"LD_ST_V", 0xF018, 0xF0FF⟩ (by decide) rfl <| by
    rw [encode, and_maskHNN, opH_wordXNN, opNN_wordXNN]
    decide

theorem addI (x : Reg) : Statement (.addI x) :=
  of_row _ ⟨"ADD_I", 0xF01E, 0xF0FF⟩ (by decide) rfl <| by
    rw [encode, and_maskHNN, opH_wordXNN, opNN_wordXNN]
    decide

theorem ldF (x : Reg) : Statement (.ldF x) :=
  of_row _ ⟨"LD_F", 0xF029, 0xF0FF⟩ (by decide) rfl <| by
    rw [encode, and_maskHNN, opH_wordXNN, opNN_wordXNN]
    decide

theorem ldB (x : Reg) : Statement (.ldB x) :=
  of_row _ ⟨"LD_B", 0xF033, 0xF0FF⟩ (by decide) rfl <| by
    rw [encode, and_maskHNN, opH_wordXNN, opNN_wordXNN]
    decide

theorem ldMemV (x : Reg) : Statement (.ldMemV x) :=
  of_row _ ⟨"LD_MEM_V", 0xF055, 0xF0FF⟩ (by decide) rfl <| by
    rw [encode, and_maskHNN, opH_wordXNN, opNN_wordXNN]
    decide

theorem ldVMem (x : Reg) : Statement (.ldVMem x) :=
  of_row _ ⟨"LD_V_MEM", 0xF065, 0xF0FF⟩ (by decide) rfl <| by
    rw [encode, and_maskHNN, opH_wordXNN, opNN_wordXNN]
    decide

end Sys2Proof.Laws.EncodeMatchesTable
end

