-- ==== Sys2Proof/Laws/Sprite.lean ====
section
/-!
SUPPORT. The sprite unit (rules R101 to R103): which cells a sprite covers, that it covers none twice, and what drawing
a list of different cells does to the framebuffer and the collision bit.
-/

namespace Sys2Proof.Machine

/-! ### One cell (rules R30, R101) -/

/-- Flipping a cell inside the framebuffer changes that cell and no other. -/
theorem cellAt_flipCell (scr : Screen) (px py x y : Nat) (hy : py < 32) (hx : px < 64) :
    cellAt (flipCell scr px py) x y = Bool.xor (cellAt scr x y) (decide ((px, py) = (x, y))) := by
  simp only [cellAt, flipCell, Vector.getElem?_setIfInBounds]
  by_cases h : py = y
  · subst h
    simp [hy, BitVec.getLsbD_twoPow, hx]
  · simp [h]

/-- A framebuffer is determined by its cells. -/
theorem screen_ext (a b : Screen) (h : ∀ x y, x < 64 → y < 32 → cellAt a x y = cellAt b x y) : a = b :=
  Vector.ext fun y hy => BitVec.eq_of_getLsbD_eq fun x hx => by simpa [cellAt, hy] using h x y hx hy

/-! ### The cells of a sprite (rules R101, R103) -/

/-- The cells of one sprite row: those of its set bits, bit 7 at the row's first column. -/
theorem mem_rowPixels (x0 y : Nat) (b : Byte) (p : Nat × Nat) :
    p ∈ rowPixels x0 y b ↔ ∃ c, c < 8 ∧ b.getLsbD (7 - c) = true ∧ p = ((x0 + c) % 64, y) := by
  simp only [rowPixels, List.mem_map, List.mem_filter, List.mem_range, and_assoc, eq_comm (a := p)]

/-- The cells of a sprite: those of the set bits of its rows, each coordinate wrapped on its own. -/
theorem mem_spritePixels (x0 y0 : Nat) (bs : List Byte) (p : Nat × Nat) :
    p ∈ spritePixels x0 y0 bs ↔
      ∃ r c, r < bs.length ∧ c < 8 ∧ (bs.getD r 0).getLsbD (7 - c) = true ∧ p = ((x0 + c) % 64, (y0 + r) % 32) := by
  induction bs generalizing y0 with
  | nil => simp [spritePixels]
  | cons b bs ih =>
    rw [spritePixels, List.mem_append, mem_rowPixels, ih]
    constructor
    · rintro (⟨c, h1, h2, h3⟩ | ⟨r, c, h0, h1, h2, h3⟩)
      · exact ⟨0, c, by simp, h1, h2, h3⟩
      · refine ⟨r + 1, c, by simpa using h0, h1, h2, ?_⟩
        rw [h3, show y0 + 1 + r = y0 + (r + 1) by omega]
    · rintro ⟨r, c, h0, h1, h2, h3⟩
      cases r with
      | zero => exact .inl ⟨c, h1, h2, h3⟩
      | succ r =>
        refine .inr ⟨r, c, by simpa using h0, h1, h2, ?_⟩
        rw [h3, show y0 + 1 + r = y0 + (r + 1) by omega]

theorem spritePixels_inside (x0 y0 : Nat) (bs : List Byte) :
    ∀ p ∈ spritePixels x0 y0 bs, p.1 < 64 ∧ p.2 < 32 := by
  intro p hp
  obtain ⟨r, c, -, -, -, rfl⟩ := (mem_spritePixels _ _ _ _).1 hp
  simp only
  omega

theorem rowPixels_nodup (x0 y : Nat) (b : Byte) : (rowPixels x0 y b).Nodup := by
  refine List.Nodup.map_on ?_ (List.nodup_range.filter _)
  intro c hc d hd h
  simp only [List.mem_filter, List.mem_range, Prod.mk.injEq, screenW] at hc hd h
  omega

/-- A sprite of at most 32 rows covers no cell twice, so the order of drawing does not matter (rule R101). -/
theorem spritePixels_nodup (x0 y0 : Nat) (bs : List Byte) (h : bs.length ≤ 32) : (spritePixels x0 y0 bs).Nodup := by
  induction bs generalizing y0 with
  | nil => simp [spritePixels]
  | cons b bs ih =>
    rw [List.length_cons] at h
    rw [spritePixels, List.nodup_append]
    refine ⟨rowPixels_nodup _ _ _, ih _ (by omega), ?_⟩
    rintro p hp q hq rfl
    obtain ⟨c, -, -, h2⟩ := (mem_rowPixels _ _ _ _).1 hp
    obtain ⟨r, d, h3, -, -, h5⟩ := (mem_spritePixels _ _ _ _).1 hq
    rw [h2] at h5
    simp only [Prod.mk.injEq, screenH] at h5
    omega

/-- Whether a sprite bit falls on a cell, by the wrapped distances from the origin, is whether the sprite covers it. -/
theorem spriteBit_eq (s : State) (x y : Reg) (n : Nibble) (px py : Nat) (hx : px < 64) (hy : py < 32) :
    s.spriteBit x y n px py = decide ((px, py) ∈ spritePixels ((s.getV x).toNat % screenW)
      ((s.getV y).toNat % screenH) (s.readRun s.i.toNat n.toNat)) := by
  have hn := n.isLt
  rw [Bool.eq_iff_iff, decide_eq_true_eq, mem_spritePixels, readRun_length]
  simp only [State.spriteBit, Bool.and_eq_true, decide_eq_true_eq, screenW, screenH]
  constructor
  · rintro ⟨⟨h1, h2⟩, h3⟩
    refine ⟨_, _, h1, h2, ?_, ?_⟩
    · rwa [readRun_getD _ _ _ _ h1]
    · simp only [Prod.mk.injEq]
      omega
  · rintro ⟨r, c, h1, h2, h3, h4⟩
    rw [readRun_getD _ _ _ _ h1] at h3
    simp only [Prod.mk.injEq] at h4
    rw [show (py + 32 - (s.getV y).toNat % 32) % 32 = r by omega,
      show (px + 64 - (s.getV x).toNat % 64) % 64 = c by omega]
    exact ⟨⟨h1, h2⟩, h3⟩

/-! ### Drawing (rules R101, R102) -/

/-- Drawing different cells flips exactly those cells, and sets the collision bit exactly when one of them was lit. -/
theorem foldl_plot (L : List (Nat × Nat)) (hL : ∀ p ∈ L, p.1 < 64 ∧ p.2 < 32) (hn : L.Nodup) (cv : Canvas) :
    (∀ x y, cellAt (L.foldl plot cv).screen x y = Bool.xor (cellAt cv.screen x y) (decide ((x, y) ∈ L))) ∧
    ((L.foldl plot cv).collision = true ↔ cv.collision = true ∨ ∃ p ∈ L, cellAt cv.screen p.1 p.2 = true) := by
  induction L generalizing cv with
  | nil => simp
  | cons p L ih =>
    have hp := hL p (by simp)
    rw [List.nodup_cons] at hn
    obtain ⟨h1, h2⟩ := ih (fun q hq => hL q (by simp [hq])) hn.2 (plot cv p)
    have other : ∀ q, q ≠ p → cellAt (flipCell cv.screen p.1 p.2) q.1 q.2 = cellAt cv.screen q.1 q.2 := by
      intro q hq
      rw [cellAt_flipCell _ _ _ _ _ hp.2 hp.1]
      simp [hq.symm]
    rw [List.foldl_cons]
    constructor
    · intro x y
      rw [h1 x y, plot, cellAt_flipCell _ _ _ _ _ hp.2 hp.1, Bool.xor_assoc]
      congr 1
      by_cases he : p = (x, y)
      · subst he
        simp [hn.1]
      · simp [he, Ne.symm he]
    · rw [h2, List.exists_mem_cons_iff, ← or_assoc]
      simp only [plot, Bool.or_eq_true]
      refine or_congr Iff.rfl (exists_congr fun q => and_congr_right fun hq => ?_)
      rw [other q (fun h => hn.1 (h ▸ hq))]

end Sys2Proof.Machine
end

