-- ==== Sys2Proof/Tests/Slice0.lean ====
section
/-!
SUPPORT. Small tests. Expected values come from the worked examples and vectors of the spec (95_test_vectors.md, named
by their ids) and from its rules; the witnesses at the end show that the statements' hypotheses can be met.
-/

namespace Sys2Proof.Tests

open Sys2Proof Sys2Proof.Machine

/-! ## Helpers -/

/-- The state of an answer; reset where there is none. -/
def after : Answer → State
  | .next t => t
  | .fault _ => State.reset
  | .refused _ => State.reset

/-- Reset with some registers set. -/
def withV (l : List (Reg × Byte)) : State := l.foldl (fun s p => s.setV p.1 p.2) State.reset

/-- One host step (rand = 0) of the word `w` placed at pc. -/
def one (s : State) (w : Nat) : State := hostStep 0 (s.withFetchWord 16 w)

/-- Reset built with other parameters. -/
def withConfig (c : Config) : State := State.construct c

def configVy : Config := { Config.default with shiftSource := .vy }
def configMask : Config := { Config.default with keyIndexPolicy := .mask }
def configLow : Config := { Config.default with lowMemWrite := .fault }

/-! ## WellFormed refuses the ill-formed terms (rule R83) -/

theorem test_wf_refuses_sys_0E0 : (Instr.sys 0x0E0).wf = false := by decide
theorem test_wf_refuses_sys_0EE : (Instr.sys 0x0EE).wf = false := by decide

/-! ## Decoding: words written out bit by bit from rule R84, `h X Y N` -/

theorem test_decode_cls : decode 0b0000000011100000 = .instr .cls := by decide
theorem test_decode_ret : decode 0b0000000011101110 = .instr .ret := by decide
theorem test_decode_sys : decode 0b0000000100100011 = .instr (.sys 0x123) := by decide
theorem test_decode_jp : decode 0b0001001000110100 = .instr (.jp 0x234) := by decide
theorem test_decode_call : decode 0b0010001000010000 = .instr (.call 0x210) := by decide
theorem test_decode_seImm : decode 0b0011001101000010 = .instr (.seImm 0x3 0x42) := by decide
theorem test_decode_sneImm : decode 0b0100001101000010 = .instr (.sneImm 0x3 0x42) := by decide
theorem test_decode_seReg : decode 0b0101000100100000 = .instr (.seReg 0x1 0x2) := by decide
theorem test_decode_ldImm : decode 0b0110101010011101 = .instr (.ldImm 0xA 0x9D) := by decide
theorem test_decode_addImm : decode 0b0111000000000001 = .instr (.addImm 0x0 0x01) := by decide
theorem test_decode_ldReg : decode 0b1000000100100000 = .instr (.ldReg 0x1 0x2) := by decide
theorem test_decode_orReg : decode 0b1000000100100001 = .instr (.orReg 0x1 0x2) := by decide
theorem test_decode_andReg : decode 0b1000000100100010 = .instr (.andReg 0x1 0x2) := by decide
theorem test_decode_xorReg : decode 0b1000000100100011 = .instr (.xorReg 0x1 0x2) := by decide
theorem test_decode_addReg : decode 0b1000000100100100 = .instr (.addReg 0x1 0x2) := by decide
theorem test_decode_sub : decode 0b1000000100100101 = .instr (.sub 0x1 0x2) := by decide
theorem test_decode_shr : decode 0b1000010000000110 = .instr (.shr 0x4 0x0) := by decide
theorem test_decode_subn : decode 0b1000000100100111 = .instr (.subn 0x1 0x2) := by decide
theorem test_decode_shl : decode 0b1000010000001110 = .instr (.shl 0x4 0x0) := by decide
theorem test_decode_sneReg : decode 0b1001000100100000 = .instr (.sneReg 0x1 0x2) := by decide
theorem test_decode_ldI : decode 0b1010001100000000 = .instr (.ldI 0x300) := by decide
theorem test_decode_jpV0 : decode 0b1011001100000000 = .instr (.jpV0 0x300) := by decide
theorem test_decode_rnd : decode 0b1100001100001111 = .instr (.rnd 0x3 0x0F) := by decide
theorem test_decode_drw : decode 0b1101000000010010 = .instr (.drw 0x0 0x1 0x2) := by decide
theorem test_decode_skp : decode 0b1110000110011110 = .instr (.skp 0x1) := by decide
theorem test_decode_sknp : decode 0b1110000110100001 = .instr (.sknp 0x1) := by decide
theorem test_decode_ldVDt : decode 0b1111001100000111 = .instr (.ldVDt 0x3) := by decide
theorem test_decode_ldVK : decode 0b1111000100001010 = .instr (.ldVK 0x1) := by decide
theorem test_decode_ldDtV : decode 0b1111101000010101 = .instr (.ldDtV 0xA) := by decide
theorem test_decode_ldStV : decode 0b1111001000011000 = .instr (.ldStV 0x2) := by decide
theorem test_decode_addI : decode 0b1111001000011110 = .instr (.addI 0x2) := by decide
theorem test_decode_ldF : decode 0b1111000000101001 = .instr (.ldF 0x0) := by decide
theorem test_decode_ldB : decode 0b1111001000110011 = .instr (.ldB 0x2) := by decide
theorem test_decode_ldMemV : decode 0b1111001001010101 = .instr (.ldMemV 0x2) := by decide
theorem test_decode_ldVMem : decode 0b1111000101100101 = .instr (.ldVMem 0x1) := by decide

/-- FL12, AL23, U1, U2: unrecognized words (rule R85). -/
theorem test_decode_unrecognized :
    decode 0x5121 = .unrecognized 0x5121 ∧ decode 0x8118 = .unrecognized 0x8118 ∧
    decode 0xE1FF = .unrecognized 0xE1FF ∧ decode 0xF1FF = .unrecognized 0xF1FF := by decide

theorem test_decodeBytes_truncated : decodeBytes [0x12] = .error .truncated := rfl
theorem test_decodeTableWord : decodeTableWord 16 0xD012 = some (.drw 0x0 0x1 0x2) := by decide

/-! ## One step of each instruction -/

/-- DS1. -/
theorem test_cls : (one (State.reset.setScreen (Vector.replicate 32 0x80)) 0x00E0).screen[5] = 0 := by decide +kernel
/-- DS4: a row wraps to the top. -/
theorem test_drw_rows_wrap :
    ((one (((withV [(1, 31)]).setI 0x300).writeRun 0x300 [0x80, 0x80]) 0xD012).screen[0],
      (one (((withV [(1, 31)]).setI 0x300).writeRun 0x300 [0x80, 0x80]) 0xD012).screen[31]) = (1, 1) := by decide +kernel
/-- DS10: the lit cell (1, 0) is turned off and reported, (0, 0) is turned on. -/
theorem test_drw_collision :
    ((one (({ State.reset with screen := Vector.replicate 32 2 }.setI 0x300).writeRun 0x300 [0xC0]) 0xD011).screen[0],
      (one (({ State.reset with screen := Vector.replicate 32 2 }.setI 0x300).writeRun 0x300 [0xC0]) 0xD011).getV 0xF)
      = (1, 1) := by decide +kernel
/-- FL2. -/
theorem test_ret : (one { State.reset with stack := [0x400, 0x206] } 0x00EE).pc = 0x400 := by decide
/-- FL1. -/
theorem test_ret_underflow : (one State.reset 0x00EE).run = .faulted .stackUnderflow := by decide
/-- FL18. -/
theorem test_sys : (one State.reset 0x0123).pc = 0x202 := by decide
/-- FL4. -/
theorem test_jp : (one State.reset 0x1FFE).pc = 0xFFE := by decide
/-- FL5. -/
theorem test_call : (one State.reset 0x2300).stack = [0x202] ∧ (one State.reset 0x2300).pc = 0x300 := by decide
/-- FL6. -/
theorem test_call_overflow :
    (one { State.reset with stack := List.replicate 16 0x202 } 0x2300).run = .faulted .stackOverflow := by decide
/-- FL7 and FL8. -/
theorem test_seImm : (one (withV [(3, 0x42)]) 0x3342).pc = 0x204 ∧ (one (withV [(3, 0x41)]) 0x3342).pc = 0x202 := by
  decide
/-- FL9 and FL10. -/
theorem test_sneImm : (one (withV [(3, 0x41)]) 0x4342).pc = 0x204 ∧ (one (withV [(3, 0x42)]) 0x4342).pc = 0x202 := by
  decide
/-- FL11. -/
theorem test_seReg : (one (withV [(1, 7), (2, 7)]) 0x5120).pc = 0x204 := by decide
/-- FL13 and FL14. -/
theorem test_sneReg : (one (withV [(1, 7), (2, 7)]) 0x9120).pc = 0x202 ∧ (one (withV [(1, 7), (2, 8)]) 0x9120).pc = 0x204 := by
  decide
/-- FL17: no mask to 12 bits. -/
theorem test_jpV0 : (one (withV [(0, 0xFF)]) 0xBFFF).pc = 0x10FE := by decide
/-- FL15. -/
theorem test_unrecognized : (one (withV [(1, 7), (2, 8)]) 0x9121).pc = 0x202 := by decide
/-- FL21. -/
theorem test_fetch_fault : (hostStep 0 (State.reset.jump 0xFFF)).run = .faulted (.memoryOutOfRange 0x1000) := by decide
/-- IM1. -/
theorem test_ldImm : (one State.reset 0x6F42).getV 0xF = 0x42 := by decide
/-- IM2: a wrap with VF untouched. -/
theorem test_addImm : (one (withV [(0, 1), (0xF, 0x55)]) 0x70FF).getV 0 = 0 ∧
    (one (withV [(0, 1), (0xF, 0x55)]) 0x70FF).getV 0xF = 0x55 := by decide
/-- IM4. -/
theorem test_rnd : (hostStep 0xB7 (State.reset.withFetchWord 16 0xC30F)).getV 3 = 0x07 := by decide
/-- AL1. -/
theorem test_ldReg : (one (withV [(2, 0xAB)]) 0x8120).getV 1 = 0xAB := by decide
/-- AL2. -/
theorem test_orReg : (one (withV [(1, 0xF0), (2, 0x0F), (0xF, 0x55)]) 0x8121).getV 1 = 0xFF ∧
    (one (withV [(1, 0xF0), (2, 0x0F), (0xF, 0x55)]) 0x8121).getV 0xF = 0x55 := by decide
/-- AL3. -/
theorem test_andReg : (one (withV [(1, 0xF0), (2, 0x3C)]) 0x8122).getV 1 = 0x30 := by decide
/-- AL4. -/
theorem test_xorReg : (one (withV [(1, 0xF0), (2, 0x3C)]) 0x8123).getV 1 = 0xCC := by decide
/-- AL5. -/
theorem test_addReg_carry : (one (withV [(1, 0xFF), (2, 1)]) 0x8124).getV 1 = 0 ∧
    (one (withV [(1, 0xFF), (2, 1)]) 0x8124).getV 0xF = 1 := by decide
/-- AL8: with X = F the flag stays. -/
theorem test_addReg_flag_last : (one (withV [(1, 2), (0xF, 0xFF)]) 0x8F14).getV 0xF = 1 := by decide
/-- AL10. -/
theorem test_sub_borrow : (one (withV [(1, 1), (2, 2)]) 0x8125).getV 1 = 0xFF ∧
    (one (withV [(1, 1), (2, 2), (0xF, 7)]) 0x8125).getV 0xF = 0 := by decide
/-- AL11. -/
theorem test_sub_equal : (one (withV [(1, 5), (2, 5)]) 0x8125).getV 0xF = 1 := by decide
/-- AL14 and AL15. -/
theorem test_subn : (one (withV [(1, 5), (2, 3)]) 0x8127).getV 1 = 0xFE ∧ (one (withV [(1, 3), (2, 5)]) 0x8127).getV 0xF = 1 := by
  decide
/-- AL16: VY ignored. -/
theorem test_shr : (one (withV [(1, 1), (0, 0xFE)]) 0x8106).getV 1 = 0 ∧ (one (withV [(1, 1), (0, 0xFE)]) 0x8106).getV 0xF = 1 := by
  decide
/-- AL22: `SHIFT_SOURCE = vy`. -/
theorem test_shr_vy : (one ({ withV [(1, 1), (0, 0xFF)] with config := configVy }) 0x8106).getV 1 = 0x7F := by decide
/-- AL19 and AL20. -/
theorem test_shl : (one (withV [(1, 0x80)]) 0x810E).getV 0xF = 1 ∧ (one (withV [(1, 0x7F)]) 0x810E).getV 1 = 0xFE := by
  decide
/-- IX1. -/
theorem test_ldI : (one State.reset 0xA123).i = 0x123 := by decide
/-- IX2 and IX3. -/
theorem test_addI : (one ((withV [(1, 1)]).setI 0xFFF) 0xF11E).i = 0x1000 ∧ (one ((withV [(1, 2)]).setI 0xFFFF) 0xF11E).i = 1 := by
  decide
/-- IX4 and IX6. -/
theorem test_ldF : (one (withV [(1, 0x0A)]) 0xF129).i = 0x032 ∧ (one (withV [(1, 0xFF)]) 0xF129).i = 0x4FB := by decide
/-- S1, IX7: memory lists the instruction's word and 01 05 07. -/
theorem test_ldB : (one ((withV [(2, 157)]).setI 0x300) 0xF233).mem =
    [(0x200, 0xF2), (0x201, 0x33), (0x300, 1), (0x301, 5), (0x302, 7)] := by decide
/-- IX13: `LOW_MEM_WRITE = fault`. -/
theorem test_ldB_low_fault :
    (one { (withV [(2, 157)]).setI 0x10 with config := configLow } 0xF233).run = .faulted (.memoryOutOfRange 0x10) := by decide
/-- IX17: the upper bound is inclusive; the zeros stored equal what is there already. -/
theorem test_ldMemV_inclusive : (one ((withV [(0xF, 0xEE)]).setI 0xFF0) 0xFF55).mem =
    [(0x200, 0xFF), (0x201, 0x55), (0xFFF, 0xEE)] := by decide
/-- IX16: a fault writes nothing. -/
theorem test_ldMemV_fault : (one ((withV [(0, 9)]).setI 0xFFF) 0xF155).run = .faulted (.memoryOutOfRange 0x1000) ∧
    (one ((withV [(0, 9)]).setI 0xFFF) 0xF155).readByte 0xFFF = 0 := by decide
/-- IX18: V2 is above X and stays. -/
theorem test_ldVMem : (one ((State.reset.setI 0x300).writeRun 0x300 [0xAA, 0xBB, 0xCC]) 0xF165).getV 1 = 0xBB ∧
    (one ((State.reset.setI 0x300).writeRun 0x300 [0xAA, 0xBB, 0xCC]) 0xF165).getV 2 = 0 := by decide +kernel
/-- P4: glyph 7 is F0 10 20 40 40. -/
theorem test_font_glyph_seven : State.reset.readRun 0x23 5 = [0xF0, 0x10, 0x20, 0x40, 0x40] := by decide
/-- KT1 and KT2. -/
theorem test_skp : (one (setKeys 0x80 (withV [(1, 7)])) 0xE19E).pc = 0x204 ∧ (one (withV [(1, 7)]) 0xE19E).pc = 0x202 := by
  decide
/-- KT5 and KT7. -/
theorem test_skp_index : (one (withV [(1, 16)]) 0xE19E).run = .faulted (.keyOutOfRange 16) ∧
    (one { setKeys 0x80 (withV [(1, 0x17)]) with config := configMask } 0xE19E).pc = 0x204 := by decide
/-- KT3 and KT4. -/
theorem test_sknp : (one (withV [(1, 7)]) 0xE1A1).pc = 0x204 ∧ (one (setKeys 0x80 (withV [(1, 7)])) 0xE1A1).pc = 0x202 := by
  decide
/-- KT8. -/
theorem test_ldVDt : (one (State.reset.setDt 0x3C) 0xF307).getV 3 = 0x3C := by decide
/-- KT9. -/
theorem test_ldVK_waits : (one State.reset 0xF10A).run = .awaitingKey 1 ∧ (one State.reset 0xF10A).pc = 0x200 := by decide
/-- KT10: the lowest index. -/
theorem test_ldVK_lowest : (one (setKeys 0x208 State.reset) 0xF10A).getV 1 = 3 := by decide
/-- KT12. -/
theorem test_awaiting_completes :
    (hostStep 0 { setKeys 0x80 State.reset with run := .awaitingKey 1, pc := 0x20A }).getV 1 = 7 ∧
    (hostStep 0 { setKeys 0x80 State.reset with run := .awaitingKey 1, pc := 0x20A }).pc = 0x20C := by decide
/-- KT14: VX = 0 stops the timer. -/
theorem test_ldDtV : (one (State.reset.setDt 9) 0xF415).dt = 0 := by decide
/-- KT15. -/
theorem test_ldStV : (one (withV [(4, 0x1E)]) 0xF418).st = 0x1E := by decide
/-- KT17: ticks run in every RUN state. -/
theorem test_tick_faulted : (tick { State.reset with run := .faulted .stackUnderflow, dt := 5, st := 0 }).dt = 4 ∧
    (tick { State.reset with run := .faulted .stackUnderflow, dt := 5, st := 0 }).st = 0 := by decide
/-- U6. -/
theorem test_faulted_step : step { State.reset with run := .faulted .stackOverflow } = .fault .stackOverflow := rfl
/-- Rule R104: the export flips rows. -/
theorem test_export_flips : exportPixel (flipCell State.reset.screen 3 0) 3 31 = .opaqueWhite ∧
    exportPixel (flipCell State.reset.screen 3 0) 3 0 = .opaqueBlack := by decide
/-- Rule R200. -/
theorem test_fault_codes : [Fault.stackOverflow, .stackUnderflow, .memoryOutOfRange 4096, .keyOutOfRange 16,
    .registerOutOfRange 16].map Fault.code = [1, 2, 3, 4, 5] := by decide

/-! ## Witnesses: states and operands that meet the hypotheses of each statement, at the ends of their ranges -/

/-- A state the invariant holds of that is not reset: it waits to run FX0A, with bytes stored. -/
def sample : State := ((withV [(1, 7), (2, 157)]).setI 0x300).withFetchWord 16 0xF10A

theorem witness_DecodeInvertsEncode : (Instr.sys 0x0EF).wf = true ∧ (Instr.drw 0xF 0x1 0xF).wf = true := by decide

theorem witness_EncodeInvertsDecode : decode 0xDF1F = .instr (.drw 0xF 0x1 0xF) := by decide

theorem witness_OpcodeRowsAreDisjoint :
    (⟨"CLS", 0x00E0, 0xFFFF⟩ ∈ opcodeTable ∧ ⟨"SYS", 0x0000, 0xF000⟩ ∈ opcodeTable) ∧
    OpcodeRow.hits ⟨"CLS", 0x00E0, 0xFFFF⟩ 0x00E0 = true ∧ OpcodeRow.hits ⟨"SYS", 0x0000, 0xF000⟩ 0x00E0 = true := by
  decide

theorem witness_StepRunsFetchedInstruction :
    let s := (State.reset.jump 0xFFE).withFetchWord 16 0x1234
    s.run = .running ∧ s.pc.toNat + 1 = 4095 ∧
      decode (s.readByte s.pc.toNat ++ s.readByte (s.pc.toNat + 1)) = .instr (.jp 0x234) := by decide

theorem witness_UnrecognizedIsNoOp :
    let s := (State.reset.jump 0xFFE).withFetchWord 16 0x5121
    s.run = .running ∧ s.pc.toNat + 1 = 4095 ∧
      decode (s.readByte s.pc.toNat ++ s.readByte (s.pc.toNat + 1)) = .unrecognized 0x5121 := by decide

theorem witness_FetchOutsideMemoryFaults :
    (State.reset.jump 0xFFF).run = .running ∧ 4096 ≤ (State.reset.jump 0xFFF).pc.toNat + 1 ∧
      ¬4096 ≤ (State.reset.jump 0xFFF).pc.toNat ∧ 4096 ≤ (State.reset.jump 0x1000).pc.toNat := by decide

theorem witness_FetchIsBigEndian : Memory.wf sample.config sample.mem ∧ sample.mem ≠ [] := by decide

theorem witness_DrwXorsSpriteAndReportsCollision :
    ((0x0 : Nibble).toNat = 0 ∧ 4096 ≤ (State.reset.setI 0x1000).i.toNat) ∧
    (State.reset.setI 0xFF1).i.toNat + (0xF : Nibble).toNat = 4096 := by decide

theorem witness_DrwOutsideMemoryFaults :
    0 < (0x2 : Nibble).toNat ∧ (State.reset.setI 0xFFF).i.toNat + (0x2 : Nibble).toNat = 4097 := by decide

/-- With the column of the origin in VF, put back after the first draw. -/
theorem witness_DrawTwiceRestoresScreen :
    sample.i.toNat + (0x5 : Nibble).toNat ≤ 4096 ∧
    ∃ t u : State, exec (.drw 0xF 1 0x5) sample = .next t ∧ u.screen = t.screen ∧ u.mem = t.mem ∧
      u.config = t.config ∧ u.i = t.i ∧ u.getV 0xF = sample.getV 0xF ∧ u.getV 1 = sample.getV 1 :=
  ⟨by decide, after (exec (.drw 0xF 1 0x5) sample), { after (exec (.drw 0xF 1 0x5) sample) with v := sample.v },
    rfl, rfl, rfl, rfl, rfl, rfl, rfl⟩

theorem witness_RetPopsReturnAddress : 0 < State.sp { State.reset with stack := [0x202] } := by decide

theorem witness_StackBoundsFault :
    State.reset.sp = 0 ∧ State.sp { State.reset with stack := List.replicate 16 0x202 } = 16 := by decide

theorem witness_CallPushesReturnAddress : State.sp { State.reset with stack := List.replicate 15 0x202 } < 16 := by
  decide

theorem witness_CallThenRetResumes : State.reset.sp < 16 ∧ ∃ t, exec (.call 0x300) State.reset = .next t ∧
    State.stack { sample with stack := t.stack } = t.stack :=
  ⟨by decide, after (exec (.call 0x300) State.reset), rfl, rfl⟩

/-- Reset with the word `w` placed at 0x200. -/
def atWord (w : Nat) : State := State.reset.withFetchWord 16 w

/-- The halt idiom at the entry point: no end before a step, nor after a tick (rule R249). -/
theorem test_endOfRun_needs_a_step :
    (atWord 0x1200).runEnded = true ∧ (endOfRun [] (atWord 0x1200)).isNone ∧
      (endOfRun [.tick, .setKeys 1] (atWord 0x1200)).isNone := by decide

/-- The end is the state after the step that faulted, not a later one (rule R249). -/
theorem test_endOfRun_is_the_first :
    ((endOfRun [.step 0, .tick, .step 0] { atWord 0x00EE with dt := 5 }).map State.dt) = some 5 := by decide

theorem witness_SelfJumpIsFinal :
    (State.run ((State.reset.jump 0xFFE).withFetchWord 16 0x1FFE) = .running ∧
      State.runEnded ((State.reset.jump 0xFFE).withFetchWord 16 0x1FFE) = true) ∧
    ((endOfRun [.tick, .step 0] (atWord 0x1200)).map State.run = some .running) ∧
    ((endOfRun [.step 0] (atWord 0x00EE)).map State.run = some (.faulted .stackUnderflow)) := by decide

theorem witness_SysOnlyAdvances : (0x0E1 : Addr12) ≠ 0x0E0 ∧ (0x0E1 : Addr12) ≠ 0x0EE := by decide

theorem witness_EntropyReachesOnlyRnd : sample.run = .running → ∀ x nn, decode sample.fetchWord ≠ .instr (.rnd x nn) := by
  intro _ x nn
  rw [show decode sample.fetchWord = .instr (.ldVK 1) by decide]
  exact fun h => nomatch h

theorem witness_ShiftsByOneBit :
    (sample.config.shiftSource = .vx ∧ sample.getV 1 = 7) ∧
    ((withConfig configVy).config.shiftSource = .vy ∧ (withConfig configVy).getV 0 = 0) := by decide

theorem witness_LdBStoresDecimalDigits :
    (Memory.wf sample.config sample.mem ∧ (sample.setI 0xFFD).storable 0xFFD 3) ∧
    ((withConfig configLow).setI 0x200).storable 0x200 3 := by decide

theorem witness_LdMemVDumpsRegisters :
    Memory.wf sample.config sample.mem ∧ (sample.setI 0xFF0).storable 0xFF0 ((0xF : Reg).val + 1) ∧
    (sample.setI 0xFFF).storable 0xFFF ((0 : Reg).val + 1) := by decide

theorem witness_LdVMemLoadsRegisters : (sample.setI 0xFF0).i.toNat + (0xF : Reg).val = 4095 := by decide

theorem witness_MemoryMovesOutsideMemoryFault :
    4096 = (sample.setI 0xFFE).i.toNat + 2 ∧ 4096 = (sample.setI 0xFFF).i.toNat + (1 : Reg).val := by decide

theorem witness_LowStoresFaultUnderPolicy :
    (withConfig configLow).config.lowMemWrite = .fault ∧ ((withConfig configLow).setI 0x1FF).i.toNat < 0x200 := by decide

theorem witness_DumpThenLoadRestores :
    Memory.wf sample.config sample.mem ∧ sample.storable sample.i.toNat ((5 : Reg).val + 1) ∧
      ∃ t, exec (.ldMemV 5) sample = .next t ∧ (t.setV 0 9).mem = t.mem ∧ (t.setV 0 9).i = t.i :=
  ⟨by decide, by decide, after (exec (.ldMemV 5) sample), rfl, rfl, rfl⟩

theorem witness_KeySkipsTestLatch :
    ((withV [(1, 15)]).getV 1).toNat ≤ 15 ∧ (withConfig configMask).config.keyIndexPolicy = .mask := by decide

theorem witness_KeySkipsFaultAboveFifteen :
    (withV [(1, 16)]).config.keyIndexPolicy = .fault ∧ 15 < ((withV [(1, 16)]).getV 1).toNat := by decide

theorem witness_KeyWaitTakesLowestPressed :
    ((setKeys 0x0001 sample).keyPressed 0 = true ∧ ∀ j, j < 0 → (setKeys 0x0001 sample).keyPressed j = false) ∧
    ((setKeys 0x8000 sample).keyPressed 15 = true ∧ ∀ j, j < 15 → (setKeys 0x8000 sample).keyPressed j = false) := by
  decide

theorem witness_KeyWaitBeginsWithoutKey : ∀ k, k < 16 → sample.keyPressed k = false := by decide

theorem witness_WaitPersistsUntilKey :
    let s := { sample with run := .awaitingKey 1 }
    (s.run = .awaitingKey 1 ∧ ∀ k, k < 16 → s.keyPressed k = false) ∧
      (0x8000 : BitVec 16).getLsbD 15 = true ∧ ∀ j, j < 15 → (0x8000 : BitVec 16).getLsbD j = false := by decide

theorem witness_UnrecognizedWordsExactly : decode 0x5121 = .unrecognized 0x5121 := by decide

/-- A running machine at a CXNN in the last two bytes of memory. -/
def atRnd : State := (State.reset.jump 0xFFE).withFetchWord 16 0xCF0F

theorem witness_RndStoresMaskedDraw :
    (State.draws { sample with draws := [0x5A] } = [0x5A] ∧ sample.draws = []) ∧
    atRnd.run = .running ∧ atRnd.pc.toNat + 1 = 4095 ∧ decode atRnd.fetchWord = .instr (.rnd 0xF 0x0F) := by decide

theorem witness_AddRegSumAndCarry : (1 : Reg) ≠ 0xF ∧ (3 : Reg) ≠ 1 ∧ (3 : Reg) ≠ 0xF := by decide

theorem witness_SubtractionsAndNoBorrow : (0xE : Reg) ≠ 0xF ∧ (0 : Reg) ≠ 0xE ∧ (0 : Reg) ≠ 0xF := by decide

theorem witness_IndexArithmetic : sample.config.wf ∧ Config.wf { Config.default with fontBase := 0x1B0 } := by decide

theorem witness_TimersAreSetFromRegister : sample.getV 0 = 0 ∧ sample.getV 1 ≠ 0 := by decide

theorem witness_LatchesChangeOnlyBySetKeys : ∀ k, HostCmd.setKeys k ∉ [HostCmd.step 0, .tick] := by simp

theorem witness_SoundTimerIsNeverRead : ∃ t, step sample = .next t := ⟨after (step sample), rfl⟩

theorem witness_KeysReachOnlyKeyInstructions :
    ((∀ x, Instr.cls ≠ .skp x) ∧ (∀ x, Instr.cls ≠ .sknp x) ∧ ∀ x, Instr.cls ≠ .ldVK x) ∧
      ∃ t, exec .cls sample = .next t :=
  ⟨by simp, after (exec .cls sample), rfl⟩

theorem witness_RegistersOutsideDestinationsStay :
    (3 : Reg) ∉ writtenRegs (.ldVMem 2) ∧ ∃ t, exec (.ldVMem 2) sample = .next t :=
  ⟨by decide, after (exec (.ldVMem 2) sample), rfl⟩

theorem witness_StateIsWrittenOnlyByItsWriters :
    ((∀ x, Instr.jp 0 ≠ .ldB x) ∧ (∀ x, Instr.jp 0 ≠ .ldMemV x) ∧ Instr.jp 0 ≠ .cls ∧ Instr.jp 0 ≠ .ret) ∧
      ∃ t, exec (.jp 0) sample = .next t :=
  ⟨by simp, after (exec (.jp 0) sample), rfl⟩

theorem witness_PcAdvancesByRule :
    (Instr.skp 1 ≠ .ret ∧ (∀ n, Instr.skp 1 ≠ .jp n) ∧ (∀ n, Instr.skp 1 ≠ .jpV0 n) ∧ ∀ n, Instr.skp 1 ≠ .call n) ∧
      ∃ t, exec (.skp 1) sample = .next t :=
  ⟨by simp, after (exec (.skp 1) sample), rfl⟩

theorem witness_FaultsArePrecise :
    ∃ t, step (State.reset.withFetchWord 16 0x00EE) = .next t ∧ t.run = .faulted .stackUnderflow :=
  ⟨after (step (State.reset.withFetchWord 16 0x00EE)), rfl, by decide⟩

theorem witness_FaultIsTerminal : State.run { sample with run := .faulted .stackOverflow } = .faulted .stackOverflow := rfl

theorem witness_LoadPlacesRomAndFont :
    Config.default.wf ∧ Config.wf { Config.default with fontBase := 0x1B0 } ∧
      (List.replicate 3584 (0x12 : Byte)).length ≤ 3584 :=
  ⟨by decide, by decide, le_of_eq List.length_replicate⟩

theorem witness_LoadRejectsLongRom : 0x1000 < (List.replicate 3585 (0x12 : Byte)).length + 0x200 :=
  lt_of_lt_of_eq (Nat.lt_succ_self 0x1000) (congrArg (· + 0x200) List.length_replicate).symm

theorem witness_StepKeepsInvariant : sample.Inv ∧ ∃ t, step sample = .next t ∧ t.run = .awaitingKey 1 :=
  ⟨by decide +kernel, after (step sample), rfl, by decide⟩

theorem witness_EveryScheduleKeepsInvariant :
    sample.Inv ∧ Config.default.wf ∧ ∃ s, load Config.default [0x12, 0x00] = .ok s :=
  ⟨witness_StepKeepsInvariant.1, by decide, _, rfl⟩

end Sys2Proof.Tests
end

section
/-!
Precise faults (rules R10, R205), statement O54. Laws/Meanings has `exec_cases`, which also says that the fault is
legal and for that needs the stack bound; here is what an instruction and a step can do to RUN in every state.
-/

namespace Sys2Proof.Machine

variable (s t : State)

/-- A checked effect that itself leaves RUN alone enters a fault with nothing else changed, or keeps RUN. -/
theorem checked_faulted_or_keeps_run (fault? : Option Fault) (u : State) (h : checked s fault? u = .next t)
    (hu : u.run = s.run) : (∃ f, t = { s with run := .faulted f }) ∨ t.run = s.run := by
  rcases checked_cases s fault? u t h with ⟨f, -, rfl⟩ | ⟨-, rfl⟩
  · exact .inl ⟨f, rfl⟩
  · exact .inr hu

/-- RET enters a fault with nothing else changed, or keeps RUN (rules R110, R202). -/
theorem execRet_faulted_or_keeps_run (h : execRet s = .next t) :
    (∃ f, t = { s with run := .faulted f }) ∨ t.run = s.run := by
  unfold execRet at h
  split at h <;> cases h
  · exact .inl ⟨_, rfl⟩
  · exact .inr rfl

/-- Both key skips enter the fault of their key index with nothing else changed, or keep RUN (rules R180 to R182,
R204). -/
theorem execKeySkip_faulted_or_keeps_run (x : Reg) (h : execSkp x s = .next t ∨ execSknp x s = .next t) :
    (∃ f, t = { s with run := .faulted f }) ∨ t.run = s.run := by
  cases hk : keyIndex s.config (s.getV x) with
  | error f =>
    simp only [execSkp, execSknp, hk, raise_eq, or_self] at h
    exact .inl ⟨f, (Host.Outcome.next.inj h).symm⟩
  | ok k =>
    simp only [execSkp, execSknp, hk] at h
    rcases h with h | h <;> exact .inr (congrArg State.run (Host.Outcome.next.inj h)).symm

/-- FX0A keeps RUN, or begins its wait with nothing else changed (rule R184). -/
theorem execLdVK_awaits_or_keeps_run (x : Reg) (h : execLdVK x s = .next t) :
    t = { s with run := .awaitingKey x } ∨ t.run = s.run := by
  unfold execLdVK at h
  split at h <;> cases h
  · exact .inr rfl
  · exact .inl rfl

/-- What any instruction does to RUN, in every state: it enters a fault with nothing else changed, begins FX0A's wait
with nothing else changed, or keeps RUN. -/
theorem exec_run_cases (i : Instr) (h : exec i s = .next t) :
    (∃ f, t = { s with run := .faulted f }) ∨ (∃ x, i = .ldVK x ∧ t = { s with run := .awaitingKey x }) ∨
      t.run = s.run := by
  cases i with
  | ret => exact (execRet_faulted_or_keeps_run s t h).imp_right .inr
  | call | drw | ldB | ldMemV | ldVMem => exact (checked_faulted_or_keeps_run s t _ _ h rfl).imp_right .inr
  | skp x => exact (execKeySkip_faulted_or_keeps_run s t x (.inl h)).imp_right .inr
  | sknp x => exact (execKeySkip_faulted_or_keeps_run s t x (.inr h)).imp_right .inr
  | ldVK x => exact .inr ((execLdVK_awaits_or_keeps_run s t x h).imp_left fun ht => ⟨x, rfl, ht⟩)
  | _ => exact .inr (.inr (congrArg State.run (Host.Outcome.next.inj h)).symm)

/-- A waiting machine's step ends the wait or changes nothing, RUN included (rule R185). -/
theorem awaitingKeyStep_running_or_eq (x : Reg) :
    (awaitingKeyStep x s).run = .running ∨ awaitingKeyStep x s = s := by
  unfold awaitingKeyStep
  split
  · exact .inl rfl
  · exact .inr rfl

/-- A step that answers a next state enters a fault with nothing else changed, or reaches a state with no fault: a
machine that already records one answers it and has no next state (rules R205, R206). -/
theorem step_faulted_or_not_faulted (h : step s = .next t) :
    (∃ f, t = { s with run := .faulted f }) ∨ ∀ f, t.run ≠ .faulted f := by
  rcases step_cases s with ⟨f, -, hs⟩ | ⟨x, hr, hs⟩ | ⟨f, -, -, hs⟩ | ⟨i, hr, -, -, hs⟩ | ⟨op, hr, -, -, hs⟩
  · cases hs.symm.trans h
  · cases hs.symm.trans h
    rcases awaitingKeyStep_running_or_eq s x with ht | ht <;> exact .inr fun f => by simp [ht, hr]
  · cases hs.symm.trans h
    exact .inl ⟨f, rfl⟩
  · rcases exec_run_cases s t i (hs.symm.trans h) with hf | ⟨x, -, rfl⟩ | ht
    · exact .inl hf
    · exact .inr fun f => Run.noConfusion
    · exact .inr fun f => by simp [ht, hr]
  · cases hs.symm.trans h
    exact .inr fun f => by simp [hr]

end Sys2Proof.Machine

namespace Sys2Proof.Proofs

open Sys2Proof.Machine

/-- Settles O54: a step enters a fault by writing RUN alone, and no other step ends faulted. -/
theorem faultsArePrecise : Obligations.FaultsArePrecise := by
  intro s t f h hf
  rcases step_faulted_or_not_faulted s t h with ⟨g, rfl⟩ | hn
  · cases hf
    rfl
  · exact absurd hf (hn f)

end Sys2Proof.Proofs
end

section
/-!
Execution in one form. An instruction either writes RUN alone, when a check stops it or FX0A begins its wait, or takes
its whole effect (rules R10, R184, R205). `stopOf` says which RUN it then writes, `effectOf` what it does otherwise, and
`exec_eq` that `exec` is nothing but these two. What an instruction writes, keeps and reads is then said of `effectOf`
case by case.
-/

namespace Sys2Proof.Machine

/-- The RUN that an instruction writes in place of taking its effect: a fault of its checks, or FX0A's wait. -/
def stopOf (i : Instr) (s : State) : Option Run :=
  match i with
  | .ret => if s.stack = [] then some (.faulted .stackUnderflow) else none
  | .call _ => if stackDepth ≤ s.sp then some (.faulted .stackOverflow) else none
  | .drw _ _ n => (readFault s.i.toNat n.toNat).map .faulted
  | .ldB _ => (storeFault s.config s.i.toNat 3).map .faulted
  | .ldMemV x => (storeFault s.config s.i.toNat (x.val + 1)).map .faulted
  | .ldVMem x => (readFault s.i.toNat (x.val + 1)).map .faulted
  | .skp x | .sknp x =>
    if (s.getV x).toNat ≤ 15 ∨ s.config.keyIndexPolicy = .mask then none
    else some (.faulted (.keyOutOfRange (s.getV x)))
  | .ldVK x => if s.lowestKey = none then some (.awaitingKey x) else none
  | _ => none

/-- The state an instruction gives when nothing stops it. An instruction that nothing can stop answers it as it is. -/
def effectOf (i : Instr) (s : State) : State :=
  match i with
  | .ret => (s.popTo s.stack.tail).jump (s.stack.headD 0)
  | .call nnn => (s.push (s.pc + 2)).jump (addrOf nnn)
  | .drw x y n =>
    let canvas := drawSprite s.screen ((s.getV x).toNat % screenW) ((s.getV y).toNat % screenH)
      (s.readRun s.i.toNat n.toNat)
    ((s.setScreen canvas.screen).setV flagReg (flagByte canvas.collision)).advance
  | .ldB x => (s.writeRun s.i.toNat (bcdDigits (s.getV x))).advance
  | .ldMemV x => (s.writeRun s.i.toNat (s.regsTo x)).advance
  | .ldVMem x => (s.loadRegs s.i.toNat x).advance
  | .skp x => s.skipIf (s.keyPressed ((s.getV x).toNat % 16))
  | .sknp x => s.skipIf (!s.keyPressed ((s.getV x).toNat % 16))
  | .ldVK x => s.takeKey x (s.lowestKey.getD 0)
  | i => stateAfter s (exec i s)

variable (i : Instr) (s t : State)

/-! ### The form of `exec` -/

/-- A checked effect writes its fault to RUN, or happens whole. -/
theorem checked_eq (fault? : Option Fault) (u : State) :
    checked s fault? u = .next ((fault?.map Run.faulted).elim u s.setRun) := by
  cases fault? <;> rfl

/-- Every instruction writes RUN alone or takes its effect. -/
theorem exec_eq : exec i s = .next ((stopOf i s).elim (effectOf i s) s.setRun) := by
  cases i with
  | ret => cases hs : s.stack <;> simp [exec, execRet, stopOf, effectOf, hs, raise]
  | call nnn =>
    refine (checked_eq s _ _).trans ?_
    by_cases h : stackDepth ≤ s.sp <;> simp [stopOf, effectOf, h]
  | drw | ldB | ldMemV | ldVMem => exact checked_eq s _ _
  | skp x | sknp x =>
    by_cases h : (s.getV x).toNat ≤ 15 ∨ s.config.keyIndexPolicy = .mask <;>
      simp [exec, execSkp, execSknp, stopOf, effectOf, keyIndex_eq, h, raise]
  | ldVK x => cases hk : s.lowestKey <;> simp [exec, execLdVK, stopOf, effectOf, hk]
  | _ => rfl

/-- What an executed instruction gives: RUN written alone, or its effect. -/
theorem exec_next_cases (h : exec i s = .next t) :
    (∃ r, stopOf i s = some r ∧ t = s.setRun r) ∨ (stopOf i s = none ∧ t = effectOf i s) := by
  have ht := Host.Outcome.next.inj ((exec_eq i s).symm.trans h)
  cases hs : stopOf i s with
  | some r => exact .inl ⟨r, rfl, by simp [← ht, hs]⟩
  | none => exact .inr ⟨rfl, by simp [← ht, hs]⟩

/-! ### What an instruction's effect keeps (rules R33, R37) -/

@[simp] theorem effectOf_keys : (effectOf i s).keys = s.keys := by
  cases i with
  | _ => rfl

@[simp] theorem effectOf_config : (effectOf i s).config = s.config := by
  cases i with
  | _ => rfl

@[simp] theorem effectOf_run : (effectOf i s).run = s.run := by
  cases i with
  | _ => rfl

theorem effectOf_mem (hb : ∀ x, i ≠ .ldB x) (hm : ∀ x, i ≠ .ldMemV x) : (effectOf i s).mem = s.mem := by
  cases i with
  | ldB x => exact absurd rfl (hb x)
  | ldMemV x => exact absurd rfl (hm x)
  | _ => rfl

theorem effectOf_screen (hc : i ≠ .cls) (hd : ∀ x y n, i ≠ .drw x y n) : (effectOf i s).screen = s.screen := by
  cases i with
  | cls => exact absurd rfl hc
  | drw x y n => exact absurd rfl (hd x y n)
  | _ => rfl

theorem effectOf_stack (hr : i ≠ .ret) (hc : ∀ nnn, i ≠ .call nnn) : (effectOf i s).stack = s.stack := by
  cases i with
  | ret => exact absurd rfl hr
  | call nnn => exact absurd rfl (hc nnn)
  | _ => rfl

theorem effectOf_i (hl : ∀ nnn, i ≠ .ldI nnn) (ha : ∀ x, i ≠ .addI x) (hf : ∀ x, i ≠ .ldF x) :
    (effectOf i s).i = s.i := by
  cases i with
  | ldI nnn => exact absurd rfl (hl nnn)
  | addI x => exact absurd rfl (ha x)
  | ldF x => exact absurd rfl (hf x)
  | _ => rfl

theorem effectOf_dt (hd : ∀ x, i ≠ .ldDtV x) : (effectOf i s).dt = s.dt := by
  cases i with
  | ldDtV x => exact absurd rfl (hd x)
  | _ => rfl

theorem effectOf_st (hd : ∀ x, i ≠ .ldStV x) : (effectOf i s).st = s.st := by
  cases i with
  | ldStV x => exact absurd rfl (hd x)
  | _ => rfl

theorem effectOf_draws_drawn (hr : ∀ x nn, i ≠ .rnd x nn) :
    (effectOf i s).draws = s.draws ∧ (effectOf i s).drawn = s.drawn := by
  cases i with
  | rnd x nn => exact absurd rfl (hr x nn)
  | _ => exact ⟨rfl, rfl⟩

theorem getV_setV_of_ne (x r : Reg) (b : Byte) (h : r ≠ x) : (s.setV x b).getV r = s.getV r := by
  rw [State.getV_setV, if_neg h]

theorem getV_setResultAndFlag_of_ne (x r : Reg) (b : Byte) (f : Bool) (hx : r ≠ x) (hf : r ≠ flagReg) :
    (s.setResultAndFlag x b f).getV r = s.getV r := by
  rw [State.getV_setResultAndFlag, if_neg hf, if_neg hx]

/-- A register that an instruction does not list among those it writes keeps its value (rules R21, R37). -/
theorem effectOf_getV (r : Reg) (h : r ∉ writtenRegs i) : (effectOf i s).getV r = s.getV r := by
  cases i with
  | ldImm | addImm | ldReg | orReg | andReg | xorReg | ldVDt | ldVK =>
    exact getV_setV_of_ne s _ r _ (by simpa [writtenRegs] using h)
  | rnd x nn => exact getV_setV_of_ne s.consumeDraw x r _ (by simpa [writtenRegs] using h)
  | drw => exact getV_setV_of_ne (s.setScreen _) _ r _ (by simpa [writtenRegs] using h)
  | addReg | sub | shr | subn | shl =>
    obtain ⟨hx, hf⟩ : r ≠ _ ∧ r ≠ flagReg := by simpa [writtenRegs] using h
    exact getV_setResultAndFlag_of_ne s _ r _ _ hx hf
  | ldVMem x =>
    have hx : ¬r ≤ x := by simpa [writtenRegs] using h
    exact (State.getV_loadRegs s s.i.toNat x r).trans (if_neg hx)
  | _ => rfl

/-! ### What an instruction reads (rules R29, R31) -/

/-- No instruction reads ST: with another ST it stops the same way, and its effect is the same but for ST. -/
theorem exec_with_st (b : Byte) (h : exec i s = .next t) :
    ∃ c, exec i { s with st := b } = .next { t with st := c } := by
  have hstop : stopOf i { s with st := b } = stopOf i s := by
    cases i with
    | _ => rfl
  have heffect : ∃ c, effectOf i { s with st := b } = { effectOf i s with st := c } := by
    cases i with
    | ldStV x => exact ⟨s.getV x, rfl⟩
    | _ => exact ⟨b, rfl⟩
  rw [exec_eq, hstop]
  rcases exec_next_cases i s t h with ⟨r, hr, rfl⟩ | ⟨hn, rfl⟩
  · exact ⟨b, by rw [hr]; rfl⟩
  · obtain ⟨c, hc⟩ := heffect
    exact ⟨c, by rw [hn, hc]; rfl⟩

/-- An instruction but EX9E, EXA1 and FX0A does the same with other key latches. -/
theorem exec_with_keys (keys : BitVec 16) (hp : ∀ x, i ≠ .skp x) (hn : ∀ x, i ≠ .sknp x) (hk : ∀ x, i ≠ .ldVK x)
    (h : exec i s = .next t) : exec i { s with keys := keys } = .next { t with keys := keys } := by
  have hboth : stopOf i { s with keys := keys } = stopOf i s ∧
      effectOf i { s with keys := keys } = { effectOf i s with keys := keys } := by
    cases i with
    | skp x => exact absurd rfl (hp x)
    | sknp x => exact absurd rfl (hn x)
    | ldVK x => exact absurd rfl (hk x)
    | _ => exact ⟨rfl, rfl⟩
  rw [exec_eq, hboth.1, hboth.2]
  rcases exec_next_cases i s t h with ⟨r, hr, rfl⟩ | ⟨hn, rfl⟩
  · rw [hr]; rfl
  · rw [hn]; rfl

/-- A waiting machine's step does not read ST. -/
theorem awaitingKeyStep_with_st (x : Reg) (b : Byte) :
    awaitingKeyStep x { s with st := b } = { awaitingKeyStep x s with st := b } := by
  have hk : State.lowestKey { s with st := b } = s.lowestKey := rfl
  unfold awaitingKeyStep
  rw [hk]
  cases s.lowestKey <;> rfl

/-- A step with another ST gives the same state but for ST (rule R29). -/
theorem step_with_st (b : Byte) (h : step s = .next t) : ∃ c, step { s with st := b } = .next { t with st := c } := by
  rcases step_cases s with
    ⟨f, -, hs⟩ | ⟨x, hr, hs⟩ | ⟨f, hr, hf, hs⟩ | ⟨i, hr, hf, hd, hs⟩ | ⟨op, hr, hf, hd, hs⟩
  · cases hs.symm.trans h
  · cases hs.symm.trans h
    exact ⟨b, (step_awaiting { s with st := b } x hr).trans (congrArg _ (awaitingKeyStep_with_st s x b))⟩
  · cases hs.symm.trans h
    exact ⟨b, step_fetchFault { s with st := b } hr f hf⟩
  · obtain ⟨c, hc⟩ := exec_with_st i s t b (hs.symm.trans h)
    refine ⟨c, (step_fetched { s with st := b } hr hf).trans ?_⟩
    rw [show decode (State.fetchWord { s with st := b }) = .instr i from hd]
    exact hc
  · cases hs.symm.trans h
    refine ⟨b, (step_fetched { s with st := b } hr hf).trans ?_⟩
    rw [show decode (State.fetchWord { s with st := b }) = .unrecognized op from hd]
    rfl

end Sys2Proof.Machine
end

section
/-!
The transactions of the host and their schedules (rules R220 to R225): that none of them changes the parameters, that
only `set_keys` changes the latches, and the induction over a schedule.
-/

namespace Sys2Proof.Machine

variable (s t : State)

/-- A waiting machine's step keeps the latches and the parameters. -/
theorem awaitingKeyStep_keys_config (x : Reg) :
    (awaitingKeyStep x s).keys = s.keys ∧ (awaitingKeyStep x s).config = s.config := by
  unfold awaitingKeyStep
  cases s.lowestKey <;> exact ⟨rfl, rfl⟩

theorem exec_keys_config (i : Instr) (h : exec i s = .next t) : t.keys = s.keys ∧ t.config = s.config := by
  rcases exec_next_cases i s t h with ⟨r, -, rfl⟩ | ⟨-, rfl⟩
  · exact ⟨rfl, rfl⟩
  · exact ⟨effectOf_keys i s, effectOf_config i s⟩

/-- A step writes neither the latches nor the parameters (rules R31, R33). -/
theorem step_keys_config (h : step s = .next t) : t.keys = s.keys ∧ t.config = s.config := by
  rcases step_cases s with ⟨f, -, hs⟩ | ⟨x, -, hs⟩ | ⟨f, -, -, hs⟩ | ⟨i, -, -, -, hs⟩ | ⟨op, -, -, -, hs⟩
  · cases hs.symm.trans h
  · cases hs.symm.trans h
    exact awaitingKeyStep_keys_config s x
  · cases hs.symm.trans h
    exact ⟨rfl, rfl⟩
  · exact exec_keys_config s t i (hs.symm.trans h)
  · cases hs.symm.trans h
    exact ⟨rfl, rfl⟩

/-- What holds of a state and of every next state its step answers holds after the step: a step that answers none
changes nothing. -/
theorem stateAfter_of (P : State → Prop) (a : Answer) (hs : P s) (h : ∀ t, a = .next t → P t) : P (stateAfter s a) := by
  cases a with
  | next t => exact h t rfl
  | fault _ => exact hs
  | refused _ => exact hs

/-- A host step writes neither the latches nor the parameters. -/
theorem hostStep_keys_config (rand : Byte) :
    (hostStep rand s).keys = s.keys ∧ (hostStep rand s).config = s.config :=
  stateAfter_of s (fun u => u.keys = s.keys ∧ u.config = s.config) _ ⟨rfl, rfl⟩
    fun u hu => step_keys_config { s with draws := [rand] } u hu

/-- No transaction writes the parameters (rule R33). -/
theorem transact_config (c : HostCmd) : (transact c s).config = s.config := by
  cases c with
  | setKeys k => rfl
  | step rand => exact (hostStep_keys_config s rand).2
  | tick => rfl

/-- Only `set_keys` writes the latches (rules R31, R221). -/
theorem transact_keys (c : HostCmd) (h : ∀ k, c ≠ .setKeys k) : (transact c s).keys = s.keys := by
  cases c with
  | setKeys k => exact absurd rfl (h k)
  | step rand => exact (hostStep_keys_config s rand).1
  | tick => rfl

/-- What every transaction of a schedule keeps, the schedule keeps. -/
theorem runSchedule_keeps (P : State → Prop) (cmds : List HostCmd) (hc : ∀ c ∈ cmds, ∀ u, P u → P (transact c u))
    (hs : P s) : P (runSchedule cmds s) := by
  induction cmds generalizing s with
  | nil => exact hs
  | cons c cs ih =>
    exact ih _ (fun d hd => hc d (List.mem_cons_of_mem c hd)) (hc c List.mem_cons_self s hs)

end Sys2Proof.Machine
end

section
/-!
The invariant of a loaded machine (rules R25, R26, R50, R184, R200): that construction and load meet it, and that every
instruction, step and transaction keeps it.
-/

namespace Sys2Proof.Machine

variable (i : Instr) (s t : State)

/-! ### Construction and load (rules R36, R240) -/

/-- Construction lists no cell of memory. -/
theorem construct_mem_wf (c : Config) : Memory.wf (State.construct c).config (State.construct c).mem :=
  ⟨.nil, List.forall_mem_nil _⟩

theorem construct_inv (c : Config) (hc : c.wf) : (State.construct c).Inv :=
  ⟨hc, construct_mem_wf c, List.forall_mem_nil _, Nat.zero_le _, List.forall_mem_nil _,
    show (BitVec.ofNat 16 progBase).toNat ≤ 0x10FE by decide, rfl⟩

/-- A load that makes a machine constructs it and writes the ROM, which fits, at `PROG_BASE`. -/
theorem load_ok_iff (c : Config) (rom : List Byte) :
    load c rom = .ok s ↔ progBase + rom.length ≤ memSize ∧ s = (State.construct c).writeRun progBase rom := by
  unfold load
  split
  · simp only [reduceCtorEq, false_iff]
    omega
  · simp only [Except.ok.injEq, eq_comm (b := s)]
    exact (and_iff_right (by omega)).symm

theorem load_inv (c : Config) (rom : List Byte) (hc : c.wf) (h : load c rom = .ok s) : s.Inv := by
  obtain ⟨hlen, rfl⟩ := (load_ok_iff s c rom).1 h
  obtain ⟨hcfg, hwf, hb, hrest⟩ := construct_inv c hc
  exact ⟨hcfg, Memory.writeRun_wf c rom _ _ hwf, Memory.writeRun_bounded c rom _ _ hb (.inr hlen), hrest⟩

/-- After construction and a ROM at `PROG_BASE`, a byte is the ROM's or what construction left. -/
theorem readByte_loaded (c : Config) (rom : List Byte) (a : Nat) :
    ((State.construct c).writeRun progBase rom).readByte a =
      if progBase ≤ a ∧ a < progBase + rom.length then rom.getD (a - progBase) 0 else c.constructedByte a :=
  readByte_writeRun _ _ _ _ (construct_mem_wf c)

/-! ### RUN -/

/-- Writing a RUN that fits the rest of the state keeps the invariant. -/
theorem inv_setRun (r : Run) (hi : s.Inv) (hr : (s.setRun r).runLegal = true) : (s.setRun r).Inv := by
  obtain ⟨hcfg, hwf, hb, hsp, hst, hpc, -⟩ := hi
  exact ⟨hcfg, hwf, hb, hsp, hst, hpc, hr⟩

theorem runLegal_of_running (h : s.run = .running) : s.runLegal = true := by
  rw [State.runLegal, h]

/-- A waiting machine fetches its FX0A, so that its pc has two bytes of memory (rule R184). -/
theorem fetchFault_of_awaiting (x : Reg) (hr : s.run = .awaitingKey x) (hl : s.runLegal = true) :
    s.fetchFault = none := by
  rw [State.runLegal, hr, Bool.and_eq_true, decide_eq_true_eq] at hl
  exact hl.1

/-! ### Where pc goes (rule R25) -/

/-- From a pc that has two bytes of memory, at most 0xFFE. -/
theorem pc_add_le (k : Word) (hf : s.fetchFault = none) : (s.pc + k).toNat ≤ 0xFFE + k.toNat := by
  have hpc : s.pc.toNat + 1 < 4096 := (fetchFault_none_iff s).1 hf
  have hmod := Nat.mod_le (s.pc.toNat + k.toNat) (2 ^ 16)
  rw [BitVec.toNat_add]
  omega

theorem advance_pc_le (hf : s.fetchFault = none) : (s.pc + 2).toNat ≤ 0x1000 := pc_add_le s 2 hf

theorem skipIf_pc_le (c : Bool) (hf : s.fetchFault = none) : (s.skipIf c).pc.toNat ≤ 0x10FE := by
  cases c with
  | true => exact le_trans (pc_add_le s 4 hf) (by decide)
  | false => exact le_trans (advance_pc_le s hf) (by decide)

theorem addrOf_toNat (nnn : Addr12) : (addrOf nnn).toNat = nnn.toNat := by
  have := nnn.isLt
  simp only [addrOf, BitVec.toNat_setWidth]
  omega

theorem jpV0_pc_le (nnn : Addr12) (b : Byte) : (addrOf nnn + b.setWidth 16).toNat ≤ 0x10FE := by
  have := nnn.isLt
  have := b.isLt
  rw [BitVec.toNat_add, addrOf_toNat, BitVec.toNat_setWidth]
  omega

/-- The pc that an instruction's effect leaves is within the bound, if the return addresses are. -/
theorem effectOf_pc_le (hf : s.fetchFault = none) (hst : ∀ a ∈ s.stack, a.toNat ≤ 0x1000) :
    (effectOf i s).pc.toNat ≤ 0x10FE := by
  have hadv : (s.pc + 2).toNat ≤ 0x10FE := le_trans (advance_pc_le s hf) (by decide)
  have haddr (nnn : Addr12) : (addrOf nnn).toNat ≤ 0x10FE := by
    have := nnn.isLt
    rw [addrOf_toNat]
    omega
  cases i with
  | ret =>
    show (s.stack.headD 0).toNat ≤ 0x10FE
    cases hs : s.stack with
    | nil => decide
    | cons a rest => exact le_trans (hst a (by simp [hs])) (by decide)
  | jp nnn | call nnn => exact haddr nnn
  | jpV0 nnn => exact jpV0_pc_le nnn _
  | seImm | sneImm | seReg | sneReg | skp | sknp => exact skipIf_pc_le s _ hf
  | _ => exact hadv

/-! ### The stack and memory (rules R26, R50) -/

/-- CALL pushes the address after itself, at most 0x1000; RET only drops an address. -/
theorem effectOf_stack_le (hf : s.fetchFault = none) (hst : ∀ a ∈ s.stack, a.toNat ≤ 0x1000) :
    ∀ a ∈ (effectOf i s).stack, a.toNat ≤ 0x1000 := by
  cases i with
  | ret => exact fun a ha => hst a (List.mem_of_mem_tail ha)
  | call nnn => exact List.forall_mem_cons.2 ⟨advance_pc_le s hf, hst⟩
  | _ => exact hst

/-- A CALL that takes its effect found room for its frame (rule R112). -/
theorem effectOf_sp_le (hn : stopOf i s = none) (hsp : s.sp ≤ stackDepth) : (effectOf i s).sp ≤ stackDepth := by
  cases i with
  | ret =>
    show s.stack.tail.length ≤ stackDepth
    rw [List.length_tail]
    exact le_trans (Nat.sub_le _ 1) hsp
  | call nnn =>
    have hroom : ¬stackDepth ≤ s.sp := by simpa [stopOf] using hn
    exact Nat.lt_of_not_le hroom
  | _ => exact hsp

theorem effectOf_mem_wf (hwf : Memory.wf s.config s.mem) : Memory.wf s.config (effectOf i s).mem := by
  cases i with
  | ldB | ldMemV => exact Memory.writeRun_wf s.config _ _ _ hwf
  | _ => exact hwf

/-- A store that takes its effect found its addresses inside memory (rules R55, R59). -/
theorem effectOf_mem_bounded (hn : stopOf i s = none) (hb : Memory.bounded s.mem) :
    Memory.bounded (effectOf i s).mem := by
  cases i with
  | ldB x =>
    have hst := (storeFault_none_iff s _ 3 (by decide)).1 (Option.map_eq_none_iff.1 hn)
    exact Memory.writeRun_bounded s.config _ _ _ hb (.inr hst.1)
  | ldMemV x =>
    have hst := (storeFault_none_iff s _ (x.val + 1) (Nat.succ_pos _)).1 (Option.map_eq_none_iff.1 hn)
    exact Memory.writeRun_bounded s.config _ _ _ hb (.inr (by rw [regsTo_length]; exact hst.1))
  | _ => exact hb

/-! ### Instructions, steps and transactions -/

/-- An instruction that takes its effect keeps the invariant. -/
theorem effectOf_inv (hi : s.Inv) (hr : s.run = .running) (hf : s.fetchFault = none) (hn : stopOf i s = none) :
    (effectOf i s).Inv := by
  obtain ⟨hcfg, hwf, hb, hsp, hst, -, -⟩ := hi
  refine ⟨?_, ?_, effectOf_mem_bounded i s hn hb, effectOf_sp_le i s hn hsp, effectOf_stack_le i s hf hst,
    effectOf_pc_le i s hf hst, runLegal_of_running _ ((effectOf_run i s).trans hr)⟩
  · rwa [effectOf_config]
  · rw [effectOf_config]
    exact effectOf_mem_wf i s hwf

/-- The fetched instruction keeps the invariant: a fault it enters is legal, and FX0A waits at itself. -/
theorem exec_inv (hi : s.Inv) (hr : s.run = .running) (hf : s.fetchFault = none) (hd : decode s.fetchWord = .instr i)
    (h : exec i s = .next t) : t.Inv := by
  have ⟨_, _, _, hsp, _⟩ := hi
  rcases exec_cases s t i hsp h with ⟨f, rfl, hl⟩ | ⟨x, rfl, rfl⟩ | ht
  · exact inv_setRun s (.faulted f) hi hl
  · exact inv_setRun s (.awaitingKey x) hi (Bool.and_eq_true_iff.2 ⟨decide_eq_true hf, decide_eq_true hd⟩)
  · rcases exec_next_cases i s t h with ⟨r, -, rfl⟩ | ⟨hn, rfl⟩
    · exact inv_setRun s r hi (runLegal_of_running _ (ht.trans hr))
    · exact effectOf_inv i s hi hr hf hn

/-- The key that ends a wait keeps the invariant (rule R185). -/
theorem takeKey_inv (x : Reg) (k : Nat) (hi : s.Inv) (hf : s.fetchFault = none) :
    ((s.takeKey x k).setRun .running).Inv := by
  obtain ⟨hcfg, hwf, hb, hsp, hst, -, -⟩ := hi
  exact ⟨hcfg, hwf, hb, hsp, hst, le_trans (advance_pc_le s hf) (by decide), rfl⟩

/-- A waiting machine's step keeps the invariant: it ends the FX0A at pc, or changes nothing (rule R185). -/
theorem awaitingKeyStep_inv (x : Reg) (hi : s.Inv) (hr : s.run = .awaitingKey x) : (awaitingKeyStep x s).Inv := by
  have ⟨_, _, _, _, _, _, hl⟩ := hi
  have hf := fetchFault_of_awaiting s x hr hl
  unfold awaitingKeyStep
  cases s.lowestKey with
  | some k => exact takeKey_inv s x k hi hf
  | none => exact hi

/-- Every step keeps the invariant; an unrecognized word does what SYS does (rules R86, R118). -/
theorem step_inv (hi : s.Inv) (h : step s = .next t) : t.Inv := by
  rcases step_cases s with
    ⟨f, -, hs⟩ | ⟨x, hr, hs⟩ | ⟨f, -, hf, hs⟩ | ⟨i, hr, hf, hd, hs⟩ | ⟨op, hr, hf, -, hs⟩
  · cases hs.symm.trans h
  · cases hs.symm.trans h
    exact awaitingKeyStep_inv s x hi hr
  · cases hs.symm.trans h
    exact inv_setRun s (.faulted f) hi (faultLegal_read s _ _ f s.pc.isLt hf)
  · exact exec_inv i s t hi hr hf hd (hs.symm.trans h)
  · cases hs.symm.trans h
    exact effectOf_inv (.sys 0) s hi hr hf rfl

/-- The lined-up draws are the host's: the invariant does not speak of them. -/
theorem inv_with_draws (ds : List Byte) : State.Inv { s with draws := ds } ↔ s.Inv := Iff.rfl

/-- Every host transaction keeps the invariant: it speaks neither of the latches nor of the timers. -/
theorem transact_inv (c : HostCmd) (hi : s.Inv) : (transact c s).Inv := by
  cases c with
  | setKeys k => exact hi
  | step rand =>
    refine (inv_with_draws _ s.draws).2 (stateAfter_of s State.Inv _ hi fun u hu => ?_)
    exact step_inv { s with draws := [rand] } u ((inv_with_draws s [rand]).2 hi) hu
  | tick => exact hi

end Sys2Proof.Machine
end

section
/-!
The state family: calls and returns, what each instruction writes and reads, construction, and the invariant.
-/

namespace Sys2Proof.Proofs

open Sys2Proof.Machine

/-- Settles O59, by the cases of a step. -/
theorem stepKeepsInvariant : Obligations.StepKeepsInvariant := step_inv

/-- Settles O60: each transaction keeps the invariant and the parameters, and load meets it; then by induction on the
schedule. -/
theorem everyScheduleKeepsInvariant : Obligations.EveryScheduleKeepsInvariant := by
  refine ⟨fun c s hi => ⟨transact_inv s c hi, transact_config s c⟩, fun c rom s cmds hc h => ?_⟩
  refine runSchedule_keeps s (fun u => u.Inv ∧ u.config = c) cmds ?_ ⟨load_inv s c rom hc h, ?_⟩
  · exact fun d _ u hu => ⟨transact_inv u d hu.1, (transact_config u d).trans hu.2⟩
  · rw [((load_ok_iff s c rom).1 h).2]
    rfl

/-- Settles O19: the CALL had room, so it pushed the address after itself, and that is what the RET takes off. -/
theorem callThenRetResumes : Obligations.CallThenRetResumes := by
  intro s t u nnn hsp hcall hu
  have hstop : stopOf (.call nnn) s = none := if_neg (Nat.not_le_of_lt hsp)
  have ht : t.stack = (s.pc + 2) :: s.stack := by
    rcases exec_next_cases _ s t hcall with ⟨r, hr, -⟩ | ⟨-, rfl⟩
    · cases hstop.symm.trans hr
    · rfl
  have hus : u.stack = (s.pc + 2) :: s.stack := hu.trans ht
  exact ⟨(u.popTo s.stack).jump (s.pc + 2), by simp only [exec, execRet, hus], rfl, rfl⟩

/-- Settles O48: by induction on the schedule, of which no transaction writes the latches. -/
theorem latchesChangeOnlyBySetKeys : Obligations.LatchesChangeOnlyBySetKeys := by
  intro s cmds keys hc
  refine ⟨runSchedule_keeps s (fun u => u.keys = s.keys) cmds (fun c hmem u hu => ?_) rfl, runSchedule_append s _ _⟩
  exact (transact_keys u c fun k hk => hc k (hk ▸ hmem)).trans hu

/-- Settles O49, by the cases of a step. -/
theorem soundTimerIsNeverRead : Obligations.SoundTimerIsNeverRead := fun s t b h => step_with_st s t b h

/-- Settles O50: neither the checks nor the effect of another instruction read the latches. -/
theorem keysReachOnlyKeyInstructions : Obligations.KeysReachOnlyKeyInstructions :=
  fun i s t keys hp hn hk h => exec_with_keys i s t keys hp hn hk h

/-- Settles O51: an instruction that stops writes RUN alone, and an effect writes the listed registers only. -/
theorem registersOutsideDestinationsStay : Obligations.RegistersOutsideDestinationsStay := by
  intro i s t r h hr
  rcases exec_next_cases i s t h with ⟨q, -, rfl⟩ | ⟨-, rfl⟩
  · rfl
  · exact effectOf_getV i s r hr

/-- Settles O52: an instruction that stops writes RUN alone, and an effect writes a piece of state only as its
writer. -/
theorem stateIsWrittenOnlyByItsWriters : Obligations.StateIsWrittenOnlyByItsWriters := by
  intro i s t h
  rcases exec_next_cases i s t h with ⟨q, -, rfl⟩ | ⟨-, rfl⟩
  · simp
  · refine ⟨effectOf_keys i s, effectOf_config i s, fun hb hm => ?_, effectOf_screen i s, effectOf_stack i s,
      effectOf_i i s, effectOf_dt i s, effectOf_st i s, effectOf_draws_drawn i s⟩
    have hmem := effectOf_mem i s hb hm
    exact ⟨hmem, fun a => by rw [State.readByte, effectOf_config, hmem]; rfl⟩

/-- Settles O56: the ROM lies above the font, so a byte is the ROM's, the font's or zero; the other values are those of
construction. -/
theorem loadPlacesRomAndFont : Obligations.LoadPlacesRomAndFont := by
  intro c rom hc hlen
  have hload : load c rom = .ok ((State.construct c).writeRun progBase rom) :=
    (load_ok_iff _ c rom).2 ⟨by simp only [progBase, memSize]; omega, rfl⟩
  have hfont := hc.1
  simp only [fontBytes, progBase] at hfont
  refine ⟨_, hload, fun j hj => ?_, fun j hj => ?_, fun a hf hr => ?_, rfl, rfl, fun r => ?_, rfl, rfl, rfl,
    fun x y _ hy => ?_, rfl, fun k _ => ?_, rfl, rfl, rfl, load_inv _ c rom hc hload⟩
  · rw [readByte_loaded, if_pos (by simp only [progBase]; omega), Nat.add_sub_cancel_left]
  · rw [readByte_loaded, if_neg (by simp only [progBase]; omega), Config.constructedByte,
      if_pos (by simp only [fontBytes]; omega), Nat.add_sub_cancel_left]
  · rw [readByte_loaded, if_neg (by simp only [progBase]; omega), Config.constructedByte,
      if_neg (by simp only [fontBytes]; omega)]
  · simp [State.getV, State.construct]
  · simp [State.construct, cellAt, hy]
  · simp [State.construct, State.keyPressed]

/-- Settles O58: reset is construction with the default parameters, which are legal. -/
theorem resetMeetsInvariant : Obligations.ResetMeetsInvariant := construct_inv Config.default (by decide)

end Sys2Proof.Proofs
end

section
/-!
Runs of stored bytes, the fetch checks, and the two ways an instruction answers: what the memory family needs beside
Laws/Ops (rules R54, R55, R59, R62, R89).
-/

namespace Sys2Proof.Machine

variable (i : Instr) (s : State)

/-! ### Stored bytes (rules R54, R62, R163) -/

theorem readByte_writeRun_inside (a k : Nat) (bs : List Byte) (h : Memory.wf s.config s.mem) (hk : k < bs.length) :
    (s.writeRun a bs).readByte (a + k) = bs.getD k 0 := by
  rw [readByte_writeRun s _ _ _ h, if_pos (by omega), Nat.add_sub_cancel_left]

theorem readByte_writeRun_outside (a d : Nat) (bs : List Byte) (h : Memory.wf s.config s.mem)
    (hd : d < a ∨ a + bs.length ≤ d) : (s.writeRun a bs).readByte d = s.readByte d := by
  rw [readByte_writeRun s _ _ _ h, if_neg (by omega)]

theorem readByte_writeRun_singleton (a d : Nat) (b : Byte) (h : Memory.wf s.config s.mem) :
    (s.writeRun a [b]).readByte d = if a = d then b else s.readByte d := by
  split
  next had =>
    subst had
    exact readByte_writeRun_inside s a 0 [b] h Nat.one_pos
  next hne => exact readByte_writeRun_outside s a d [b] h (by rw [List.length_singleton]; omega)

/-- The stored bytes are the hundreds, tens and units themselves: a decimal digit fits a byte (rule R163). -/
theorem bcdDigits_getD_toNat (v : Byte) :
    ((bcdDigits v).getD 0 0).toNat = v.toNat / 100 ∧ ((bcdDigits v).getD 1 0).toNat = v.toNat / 10 % 10 ∧
      ((bcdDigits v).getD 2 0).toNat = v.toNat % 10 := by
  have hv := v.isLt
  have fits (n : Nat) (hn : n < 10) : (BitVec.ofNat 8 n).toNat = n := Nat.mod_eq_of_lt (by omega)
  exact ⟨fits _ (by omega), fits _ (by omega), fits _ (by omega)⟩

/-! ### Checks -/

/-- A fetch that reaches outside memory names the lowest such address (rules R55, R89). -/
theorem fetchFault_of_out (h : memSize ≤ s.pc.toNat + 1) :
    s.fetchFault = some (.memoryOutOfRange (max s.pc.toNat memSize)) :=
  readFault_of_out _ 2 Nat.two_pos (by omega)

/-- An instruction that something stops writes RUN alone. -/
theorem exec_of_stop (r : Run) (h : stopOf i s = some r) : exec i s = .next { s with run := r } := by
  rw [exec_eq, h]
  rfl

/-- An instruction that nothing stops takes its effect. -/
theorem exec_of_no_stop (h : stopOf i s = none) : exec i s = .next (effectOf i s) := by
  rw [exec_eq, h]
  rfl

end Sys2Proof.Machine
end

section
/-!
The memory family: fetch, the decimal store, the register dump, and the faults of the memory moves.
-/

namespace Sys2Proof.Proofs

open Sys2Proof.Machine

/-- Settles O7: a pc with two bytes of memory passes the fetch check. -/
theorem stepRunsFetchedInstruction : Obligations.StepRunsFetchedInstruction := by
  intro s i hr hpc hd
  rw [step_fetched s hr ((fetchFault_none_iff s).2 hpc), fetchWord_eq, hd]
  rfl

/-- Settles O9: the lowest address outside memory is pc itself, or 4096 when only the second byte is outside. -/
theorem fetchOutsideMemoryFaults : Obligations.FetchOutsideMemoryFaults := by
  intro s hr hpc
  have hlow : max s.pc.toNat memSize = if 4096 ≤ s.pc.toNat then s.pc.toNat else s.pc.toNat + 1 := by
    simp only [memSize]
    split <;> omega
  rw [← hlow]
  exact step_fetchFault s hr _ (fetchFault_of_out s hpc)

/-- Settles O10: the store reads back at its own address and at no other. -/
theorem fetchIsBigEndian : Obligations.FetchIsBigEndian := by
  intro s a b hwf
  refine ⟨fetchWord_eq s, ?_⟩
  rw [fetchWord_eq, readByte_writeRun_singleton s _ _ _ hwf, readByte_writeRun_singleton s _ _ _ hwf]
  rfl

/-- Settles O34: the effect stores the run of the three digits. -/
theorem ldBStoresDecimalDigits : Obligations.LdBStoresDecimalDigits := by
  intro s x hwf hst
  have hstop : stopOf (.ldB x) s = none :=
    Option.map_eq_none_iff.2 ((storeFault_none_iff s _ 3 (Nat.succ_pos 2)).2 hst)
  obtain ⟨hundreds, tens, units⟩ := bcdDigits_getD_toNat (s.getV x)
  have hread (k : Nat) (hk : k < 3) :
      (effectOf (.ldB x) s).readByte (s.i.toNat + k) = (bcdDigits (s.getV x)).getD k 0 :=
    readByte_writeRun_inside s _ k _ hwf hk
  refine ⟨_, exec_of_no_stop _ s hstop, ?_, ?_, ?_, fun a ha => readByte_writeRun_outside s _ a _ hwf ha, rfl⟩
  · exact (congrArg BitVec.toNat (hread 0 (by decide))).trans hundreds
  · exact (congrArg BitVec.toNat (hread 1 (by decide))).trans tens
  · exact (congrArg BitVec.toNat (hread 2 (by decide))).trans units

/-- Settles O35: the effect stores the run of the registers V0 to VX. -/
theorem ldMemVDumpsRegisters : Obligations.LdMemVDumpsRegisters := by
  intro s x hwf hst
  have hstop : stopOf (.ldMemV x) s = none :=
    Option.map_eq_none_iff.2 ((storeFault_none_iff s _ _ (Nat.succ_pos x.val)).2 hst)
  have hlen := regsTo_length s x
  refine ⟨_, exec_of_no_stop _ s hstop, fun r hr => ?_, fun a ha => ?_, rfl⟩
  · have hlt : r.val < (s.regsTo x).length := hlen ▸ Nat.lt_succ_of_le hr
    exact (readByte_writeRun_inside s _ r.val _ hwf hlt).trans (regsTo_getD s x r.val hr)
  · exact readByte_writeRun_outside s _ a _ hwf (by omega)

/-- Settles O37: the check of each move comes first, and its fault is the only write. -/
theorem memoryMovesOutsideMemoryFault : Obligations.MemoryMovesOutsideMemoryFault := by
  intro s x
  have store (n : Nat) (hn : 4096 ≤ s.i.toNat + n) :
      (storeFault s.config s.i.toNat (n + 1)).map Run.faulted =
        some (.faulted (.memoryOutOfRange (max s.i.toNat 4096))) :=
    congrArg (Option.map Run.faulted) (storeFault_of_out s.config _ _ (Nat.succ_pos n) (Nat.lt_succ_of_le hn))
  refine ⟨fun h => exec_of_stop (.ldB x) s _ (store 2 h), fun h => ⟨?_, ?_⟩⟩
  · exact exec_of_stop (.ldMemV x) s _ (store x.val h)
  · exact exec_of_stop (.ldVMem x) s _ (congrArg (Option.map Run.faulted)
      (readFault_of_out _ _ (Nat.succ_pos x.val) (Nat.lt_succ_of_le h)))

/-- Settles O38: from below 0x200 neither store reaches the end of memory, so that the policy decides. -/
theorem lowStoresFaultUnderPolicy : Obligations.LowStoresFaultUnderPolicy := by
  intro s x hc hl
  have low (n : Nat) (hn : 0 < n) (hn16 : n ≤ 16) :
      (storeFault s.config s.i.toNat n).map Run.faulted = some (.faulted (.memoryOutOfRange s.i.toNat)) :=
    congrArg (Option.map Run.faulted) (storeFault_of_low s.config _ n hn hl (by simp only [memSize]; omega) hc)
  exact ⟨exec_of_stop (.ldB x) s _ (low 3 (by decide) (by decide)),
    exec_of_stop (.ldMemV x) s _ (low (x.val + 1) (Nat.succ_pos _) x.isLt)⟩

end Sys2Proof.Proofs
end

section
/-!
The decoder against the encoder (rules R83 to R85): it reads every well-formed instruction back from its word, and what
it says of a word, an instruction or none, is right about the whole word.
-/

namespace Sys2Proof

variable (op : Word)

/-- The words that rule R85 lists as having no instruction. -/
abbrev UnrecognizedWord (op : Word) : Prop :=
  ((opH op = 0x5 ∨ opH op = 0x9) ∧ opN op ≠ 0x0) ∨
  (opH op = 0x8 ∧ opN op ∈ [0x8#4, 0x9#4, 0xA#4, 0xB#4, 0xC#4, 0xD#4, 0xF#4]) ∨
  (opH op = 0xE ∧ opNN op ∉ [0x9E#8, 0xA1#8]) ∨
  (opH op = 0xF ∧ opNN op ∉ [0x07#8, 0x0A#8, 0x15#8, 0x18#8, 0x1E#8, 0x29#8, 0x33#8, 0x55#8, 0x65#8])

/-- What the decoder may say of the word `op`: an instruction whose encoding is all of `op`, or that `op` has none. -/
def Decoded.RightFor (op : Word) : Decoded → Prop
  | .instr i => i.wf = true ∧ encode i = op
  | .unrecognized op' => op' = op ∧ UnrecognizedWord op

/-! ### Decoding an encoding -/

/-- The decoder reads every well-formed instruction back from its word. -/
theorem decode_encode (i : Instr) (hwf : i.wf = true) : decode (encode i) = .instr i := by
  cases i with
  | cls | ret => rfl
  | sys nnn =>
    obtain ⟨h0, h1⟩ := of_decide_eq_true hwf
    exact decode_sys nnn h0 h1
  | jp | call | ldI | jpV0 => exact (decode_wordNNN _ _ (by decide)).trans (by simp [decodeMajor])
  | seImm | sneImm | ldImm | addImm | rnd => exact (decode_wordXNN _ _ _ (by decide)).trans (by simp [decodeMajor])
  | seReg | sneReg | drw => exact (decode_wordXYN _ _ _ _ (by decide)).trans (by simp [decodeMajor])
  | ldReg | orReg | andReg | xorReg | addReg | sub | shr | subn | shl =>
    exact (decode_wordXYN _ _ _ _ (by decide)).trans (by simp [decodeMajor, decodeAlu])
  | skp | sknp => exact (decode_wordXNN _ _ _ (by decide)).trans (by simp [decodeMajor, decodeKey])
  | ldVDt | ldVK | ldDtV | ldStV | addI | ldF | ldB | ldMemV | ldVMem =>
    exact (decode_wordXNN _ _ _ (by decide)).trans (by simp [decodeMajor, decodeMisc])

/-- The two bytes of a word, whatever follows them, are read as that word is decoded (rules R80, R88). -/
theorem decodeBytes_bytesOfWord (w : Word) (rest : List Byte) (i : Instr) (h : decode w = .instr i) :
    decodeBytes (bytesOfWord w ++ rest) = .ok (i, rest) := by
  simp only [bytesOfWord, List.cons_append, List.nil_append, decodeBytes, wordOfBytes_bytesOfWord, h]

/-! ### Encoding a decoding: each case of the decoder fixes the fields its instruction does not hold -/

theorem wordNNN_of_opH (h : Nibble) (hh : (opH op).toNat = h.toNat) : wordNNN h (opNNN op) = op := by
  rw [← BitVec.eq_of_toNat_eq hh, wordNNN_fields]

theorem wordXNN_of_opH (h : Nibble) (hh : (opH op).toNat = h.toNat) : wordXNN h (opX op) (opNN op) = op := by
  rw [← BitVec.eq_of_toNat_eq hh, wordXNN_fields]

theorem wordXNN_of_opH_opNN (h : Nibble) (nn : Byte) (hh : opH op = h) (hn : (opNN op).toNat = nn.toNat) :
    wordXNN h (opX op) nn = op := by
  rw [← hh, ← BitVec.eq_of_toNat_eq hn, wordXNN_fields]

theorem wordXYN_of_opH_opN (h n : Nibble) (hh : opH op = h) (hn : (opN op).toNat = n.toNat) :
    wordXYN h (opX op) (opY op) n = op := by
  rw [← hh, ← BitVec.eq_of_toNat_eq hn, wordXYN_fields]

theorem wordXYN_of_opH (h : Nibble) (hh : (opH op).toNat = h.toNat) : wordXYN h (opX op) (opY op) (opN op) = op := by
  rw [← BitVec.eq_of_toNat_eq hh, wordXYN_fields]

/-- The minor opcodes of major opcode 8: those that rule R85 lists, and those of an instruction. -/
theorem alu_minor_cases : ∀ n : Nibble, n ∈ [0x8#4, 0x9#4, 0xA#4, 0xB#4, 0xC#4, 0xD#4, 0xF#4] ∨
    n.toNat ∈ [0, 1, 2, 3, 4, 5, 6, 7, 14] := by
  decide

theorem decodeAlu_rightFor (hh : opH op = 0x8) : (decodeAlu op).RightFor op := by
  unfold decodeAlu
  split
  case h_10 =>
    exact ⟨rfl, .inr (.inl ⟨hh, (alu_minor_cases (opN op)).resolve_right (by simp_all)⟩)⟩
  all_goals exact ⟨rfl, wordXYN_of_opH_opN op _ _ hh ‹_›⟩

theorem decodeKey_rightFor (hh : opH op = 0xE) : (decodeKey op).RightFor op := by
  unfold decodeKey
  split
  case h_3 h9E hA1 => exact ⟨rfl, .inr (.inr (.inl ⟨hh, by simp_all [BitVec.toNat_eq]⟩))⟩
  all_goals exact ⟨rfl, wordXNN_of_opH_opNN op _ _ hh ‹_›⟩

theorem decodeMisc_rightFor (hh : opH op = 0xF) : (decodeMisc op).RightFor op := by
  unfold decodeMisc
  split
  case h_10 => exact ⟨rfl, .inr (.inr (.inr ⟨hh, by simp_all [BitVec.toNat_eq]⟩))⟩
  all_goals exact ⟨rfl, wordXNN_of_opH_opNN op _ _ hh ‹_›⟩


/-- The exact words are gone before the major opcode 0 is read as SYS (rules R83, R118). -/
theorem sysOperandOk_of_not_exact (hh : (opH op).toNat = 0) (hcls : op ≠ 0x00E0) (hret : op ≠ 0x00EE) :
    sysOperandOk (opNNN op) := by
  have hop := wordNNN_of_opH op 0x0 hh
  constructor
  · intro h
    exact hcls (by rw [← hop, h]; rfl)
  · intro h
    exact hret (by rw [← hop, h]; rfl)

theorem decodeMajor_rightFor (hcls : op ≠ 0x00E0) (hret : op ≠ 0x00EE) : (decodeMajor op).RightFor op := by
  unfold decodeMajor
  split
  case h_1 h0 => exact ⟨decide_eq_true (sysOperandOk_of_not_exact op h0 hcls hret), wordNNN_of_opH op _ h0⟩
  case h_6 h5 =>
    have hh : opH op = 0x5 := BitVec.eq_of_toNat_eq h5
    split
    · exact ⟨rfl, wordXYN_of_opH_opN op _ _ hh (congrArg BitVec.toNat ‹_›)⟩
    · exact ⟨rfl, .inl ⟨.inl hh, ‹_›⟩⟩
  case h_10 h9 =>
    have hh : opH op = 0x9 := BitVec.eq_of_toNat_eq h9
    split
    · exact ⟨rfl, wordXYN_of_opH_opN op _ _ hh (congrArg BitVec.toNat ‹_›)⟩
    · exact ⟨rfl, .inl ⟨.inr hh, ‹_›⟩⟩
  case h_9 h8 => exact decodeAlu_rightFor op (BitVec.eq_of_toNat_eq h8)
  case h_14 hD => exact ⟨rfl, wordXYN_of_opH op _ hD⟩
  case h_15 hE => exact decodeKey_rightFor op (BitVec.eq_of_toNat_eq hE)
  case h_16 =>
    have hF : (opH op).toNat = 15 := by
      have := (opH op).isLt
      simp only [imp_false] at *
      omega
    exact decodeMisc_rightFor op (BitVec.eq_of_toNat_eq hF)
  case h_2 | h_3 | h_11 | h_12 => exact ⟨rfl, wordNNN_of_opH op _ ‹_›⟩
  all_goals exact ⟨rfl, wordXNN_of_opH op _ ‹_›⟩

/-- What the decoder says of a word is right about the whole word (rules R83, R85). -/
theorem decode_rightFor : (decode op).RightFor op := by
  unfold decode
  split
  · exact ⟨rfl, Eq.symm ‹_›⟩
  · split
    · exact ⟨rfl, Eq.symm ‹_›⟩
    · exact decodeMajor_rightFor op ‹_› ‹_›

theorem encode_of_decode (i : Instr) (h : decode op = .instr i) : i.wf = true ∧ encode i = op := by
  have hr := decode_rightFor op
  rwa [h] at hr

theorem unrecognizedWord_of_decode (op' : Word) (h : decode op = .unrecognized op') :
    op' = op ∧ UnrecognizedWord op := by
  have hr := decode_rightFor op
  rwa [h] at hr

end Sys2Proof
end

section
/-!
The opcode table (rules R84, R93): which rows a word matches, and that the decoder finds the same one.
-/

namespace Sys2Proof

variable (op : Word) (r q : OpcodeRow)

/-- The exact rows CLS and RET beside the row of SYS, which takes their words in (rule R93). -/
abbrev OpcodeRow.ExactInSys (r q : OpcodeRow) : Prop :=
  r.mask = 0xFFFF ∧ (r.pattern = 0x00E0 ∨ r.pattern = 0x00EE) ∧ q.mnemonic = "SYS"

theorem OpcodeRow.hits_iff : r.hits op = true ↔ op &&& r.mask = r.pattern := beq_iff_eq

/-- Rows that take one word in common agree wherever both look. -/
theorem pattern_and_mask_of_hits (hr : r.hits op = true) (hq : q.hits op = true) :
    r.pattern &&& q.mask = q.pattern &&& r.mask := by
  rw [OpcodeRow.hits_iff] at hr hq
  rw [← hr, ← hq, BitVec.and_assoc, BitVec.and_assoc, BitVec.and_comm r.mask]

/-- Different rows of the table disagree where both look, but for the two exact rows in SYS. -/
theorem table_rows_agree_only_in_sys : ∀ r ∈ opcodeTable, ∀ q ∈ opcodeTable,
    r.pattern &&& q.mask = q.pattern &&& r.mask → r = q ∨ r.ExactInSys q ∨ q.ExactInSys r := by
  decide

theorem exact_word_of_hits (h : r.ExactInSys q) (hr : r.hits op = true) : op = 0x00E0 ∨ op = 0x00EE := by
  obtain ⟨hm, hp, -⟩ := h
  rw [OpcodeRow.hits_iff, hm] at hr
  have hop : op = r.pattern := (BitVec.and_allOnes (x := op)).symm.trans hr
  rwa [hop]

/-- No word matches two rows of the table, but for the exact words, which match SYS too (rule R93). -/
theorem table_rows_disjoint (hr : r ∈ opcodeTable) (hq : q ∈ opcodeTable) (hhr : r.hits op = true)
    (hhq : q.hits op = true) :
    r = q ∨ ((op = 0x00E0 ∨ op = 0x00EE) ∧ (r.mnemonic = "SYS" ∨ q.mnemonic = "SYS")) := by
  rcases table_rows_agree_only_in_sys r hr q hq (pattern_and_mask_of_hits op r q hhr hhq) with h | h | h
  · exact .inl h
  · exact .inr ⟨exact_word_of_hits op r q h hhr, .inr h.2.2⟩
  · exact .inr ⟨exact_word_of_hits op q r h hhq, .inl h.2.2⟩

/-- A row that a word other than 00E0 and 00EE matches is the first it matches: it is the only one. -/
theorem tableMnemonic_of_hits (hr : r ∈ opcodeTable) (hh : r.hits op = true) (hx : ¬(op = 0x00E0 ∨ op = 0x00EE)) :
    tableMnemonic op = some r.mnemonic := by
  cases hf : opcodeTable.find? (·.hits op) with
  | none => exact absurd hh (List.find?_eq_none.1 hf r hr)
  | some q =>
    have hhq : q.hits op = true := List.find?_some (p := fun q : OpcodeRow => q.hits op) hf
    have hrows := table_rows_disjoint op r q hr (List.mem_of_find?_eq_some hf) hh hhq
    rw [tableMnemonic, hf, hrows.resolve_right fun h => hx h.1]
    rfl

/-- Every row fixes the major opcode, and the fields that pick an instruction under it. -/
theorem table_masks_cover : ∀ r ∈ opcodeTable, opH r.mask = 0xF ∧
    (opH r.pattern ∈ [0x5#4, 0x8#4, 0x9#4] → opN r.mask = 0xF) ∧
    (opH r.pattern ∈ [0xE#4, 0xF#4] → opNN r.mask = 0xFF) := by
  decide

theorem table_patterns_recognized : ∀ r ∈ opcodeTable, ¬UnrecognizedWord r.pattern := by
  decide

/-- A row takes no unrecognized word: it fixes the fields that rule R85 asks about, and its own pattern is
recognized. -/
theorem not_unrecognizedWord_of_hits (hr : r ∈ opcodeTable) (hh : r.hits op = true) : ¬UnrecognizedWord op := by
  obtain ⟨hH, hN, hNN⟩ := table_masks_cover r hr
  rw [OpcodeRow.hits_iff] at hh
  have hfield (start len : Nat) (hm : r.mask.extractLsb' start len = BitVec.allOnes len) :
      op.extractLsb' start len = r.pattern.extractLsb' start len := by
    rw [← hh, BitVec.extractLsb'_and, hm, BitVec.and_allOnes]
  have hopH : opH op = opH r.pattern := hfield 12 4 hH
  have hopN (h : opH op ∈ [0x5#4, 0x8#4, 0x9#4]) : opN op = opN r.pattern := hfield 0 4 (hN (hopH ▸ h))
  have hopNN (h : opH op ∈ [0xE#4, 0xF#4]) : opNN op = opNN r.pattern := hfield 0 8 (hNN (hopH ▸ h))
  intro hu
  refine table_patterns_recognized r hr ?_
  rw [UnrecognizedWord, ← hopH]
  rcases hu with ⟨h, hn⟩ | ⟨h, hn⟩ | ⟨h, hn⟩ | ⟨h, hn⟩
  · exact .inl ⟨h, hopN (by rcases h with h | h <;> simp [h]) ▸ hn⟩
  · exact .inr (.inl ⟨h, hopN (by simp [h]) ▸ hn⟩)
  · exact .inr (.inr (.inl ⟨h, hopNN (by simp [h]) ▸ hn⟩))
  · exact .inr (.inr (.inr ⟨h, hopNN (by simp [h]) ▸ hn⟩))

/-- An unrecognized word has no row (rules R85, R93). -/
theorem tableMnemonic_of_unrecognizedWord (h : UnrecognizedWord op) : tableMnemonic op = none := by
  have hf : opcodeTable.find? (·.hits op) = none :=
    List.find?_eq_none.2 fun r hr hh => not_unrecognizedWord_of_hits op r hr hh h
  rw [tableMnemonic, hf]
  rfl

end Sys2Proof

namespace Sys2Proof.Laws.EncodeMatchesTable

/-- The encoding of every well-formed instruction matches the row of its mnemonic (rules R84, R93). -/
theorem encode_matches_some_row : ∀ i, Statement i
  | .cls => cls | .ret => ret | .sys nnn => sys nnn | .jp nnn => jp nnn | .call nnn => call nnn
  | .seImm x nn => seImm x nn | .sneImm x nn => sneImm x nn | .seReg x y => seReg x y
  | .ldImm x nn => ldImm x nn | .addImm x nn => addImm x nn
  | .ldReg x y => ldReg x y | .orReg x y => orReg x y | .andReg x y => andReg x y | .xorReg x y => xorReg x y
  | .addReg x y => addReg x y | .sub x y => sub x y | .shr x y => shr x y | .subn x y => subn x y
  | .shl x y => shl x y | .sneReg x y => sneReg x y
  | .ldI nnn => ldI nnn | .jpV0 nnn => jpV0 nnn | .rnd x nn => rnd x nn | .drw x y n => drw x y n
  | .skp x => skp x | .sknp x => sknp x
  | .ldVDt x => ldVDt x | .ldVK x => ldVK x | .ldDtV x => ldDtV x | .ldStV x => ldStV x | .addI x => addI x
  | .ldF x => ldF x | .ldB x => ldB x | .ldMemV x => ldMemV x | .ldVMem x => ldVMem x

end Sys2Proof.Laws.EncodeMatchesTable

namespace Sys2Proof

variable (op : Word)

/-- An unrecognized word is decoded to no instruction: the encoding of one matches a row. -/
theorem decode_of_unrecognizedWord (h : UnrecognizedWord op) : decode op = .unrecognized op := by
  cases hd : decode op with
  | instr i =>
    obtain ⟨hwf, rfl⟩ := encode_of_decode op i hd
    obtain ⟨r, hr, -, hh⟩ := Laws.EncodeMatchesTable.encode_matches_some_row i hwf
    exact absurd h (not_unrecognizedWord_of_hits _ r hr hh)
  | unrecognized op' => rw [(unrecognizedWord_of_decode op op' hd).1]

/-- The decoder and the table name the same row (rules R83, R84, R93). -/
theorem decode_mnemonic_eq_table : (decode op).mnemonic? = tableMnemonic op := by
  by_cases hx : op = 0x00E0 ∨ op = 0x00EE
  · rcases hx with rfl | rfl <;> rfl
  · cases hd : decode op with
    | instr i =>
      obtain ⟨hwf, rfl⟩ := encode_of_decode op i hd
      obtain ⟨r, hr, hm, hh⟩ := Laws.EncodeMatchesTable.encode_matches_some_row i hwf
      rw [tableMnemonic_of_hits _ r hr hh hx, hm]
      rfl
    | unrecognized op' => exact (tableMnemonic_of_unrecognizedWord op (unrecognizedWord_of_decode op op' hd).2).symm

end Sys2Proof
end

section
/-!
The answers of a step, and where an instruction leaves pc (rules R89, R90, R206, R209).
-/

namespace Sys2Proof.Machine

variable (i : Instr) (s : State)

/-- A machine whose RUN records no fault has a next state (rules R87, R209). -/
theorem step_next_of_not_faulted (h : ∀ f, s.run ≠ .faulted f) : ∃ t, step s = .next t := by
  rcases step_cases s with ⟨f, hr, -⟩ | ⟨x, -, hs⟩ | ⟨f, -, -, hs⟩ | ⟨i, -, -, -, hs⟩ | ⟨op, -, -, -, hs⟩
  · exact absurd hr (h f)
  · exact ⟨_, hs⟩
  · exact ⟨_, hs⟩
  · exact ⟨_, hs.trans (exec_eq i s)⟩
  · exact ⟨_, hs⟩

/-- What stops an instruction is a fault, or FX0A's wait. -/
theorem stopOf_cases (r : Run) (h : stopOf i s = some r) :
    (∃ f, r = .faulted f) ∨ ∃ x, i = .ldVK x ∧ r = .awaitingKey x := by
  cases i with
  | ret | call | skp | sknp =>
    simp only [stopOf] at h
    split at h <;> cases h
    exact .inl ⟨_, rfl⟩
  | drw | ldB | ldMemV | ldVMem =>
    obtain ⟨f, -, rfl⟩ := Option.map_eq_some_iff.1 h
    exact .inl ⟨f, rfl⟩
  | ldVK x =>
    simp only [stopOf] at h
    split at h <;> cases h
    exact .inr ⟨x, rfl, rfl⟩
  | _ => cases h

/-- The six instructions that may skip the next one (rule R119). -/
abbrev MaySkip (i : Instr) : Prop :=
  (∃ x nn, i = .seImm x nn ∨ i = .sneImm x nn) ∨ (∃ x y, i = .seReg x y ∨ i = .sneReg x y) ∨
    ∃ x, i = .skp x ∨ i = .sknp x

theorem skipIf_pc_cases (c : Bool) : (s.skipIf c).pc = s.pc + 2 ∨ (s.skipIf c).pc = s.pc + 4 := by
  cases c with
  | false => exact .inl rfl
  | true => exact .inr rfl

/-- Outside the four transfers an effect moves pc to the next instruction or, in a skip, past it (rule R90). -/
theorem effectOf_pc_cases (hret : i ≠ .ret) (hjp : ∀ nnn, i ≠ .jp nnn) (hjpV0 : ∀ nnn, i ≠ .jpV0 nnn)
    (hcall : ∀ nnn, i ≠ .call nnn) :
    (effectOf i s).pc = s.pc + 2 ∨ ((effectOf i s).pc = s.pc + 4 ∧ MaySkip i) := by
  cases i with
  | ret => exact absurd rfl hret
  | jp nnn => exact absurd rfl (hjp nnn)
  | jpV0 nnn => exact absurd rfl (hjpV0 nnn)
  | call nnn => exact absurd rfl (hcall nnn)
  | seImm x nn => exact (skipIf_pc_cases s _).imp_right fun h => ⟨h, .inl ⟨x, nn, .inl rfl⟩⟩
  | sneImm x nn => exact (skipIf_pc_cases s _).imp_right fun h => ⟨h, .inl ⟨x, nn, .inr rfl⟩⟩
  | seReg x y => exact (skipIf_pc_cases s _).imp_right fun h => ⟨h, .inr (.inl ⟨x, y, .inl rfl⟩)⟩
  | sneReg x y => exact (skipIf_pc_cases s _).imp_right fun h => ⟨h, .inr (.inl ⟨x, y, .inr rfl⟩)⟩
  | skp x => exact (skipIf_pc_cases s _).imp_right fun h => ⟨h, .inr (.inr ⟨x, .inl rfl⟩)⟩
  | sknp x => exact (skipIf_pc_cases s _).imp_right fun h => ⟨h, .inr (.inr ⟨x, .inr rfl⟩)⟩
  | _ => exact .inl rfl

end Sys2Proof.Machine
end

section
/-!
The encoding family: decoder, encoder and opcode table agree, and what a step answers and where it leaves pc.
-/

namespace Sys2Proof.Proofs

open Sys2Proof.Machine

/-- Settles O2, by the cases of the instruction; its two bytes put together are its word again. -/
theorem decodeInvertsEncode : Obligations.DecodeInvertsEncode := by
  intro i hwf
  have hd := decode_encode i hwf
  exact ⟨hd, fun rest => decodeBytes_bytesOfWord (encode i) rest i hd⟩

/-- Settles O3, by the cases of the decoder. -/
theorem encodeInvertsDecode : Obligations.EncodeInvertsDecode := encode_of_decode

/-- Settles O4: an instruction's encoding matches the row of its mnemonic, and no other; an unrecognized word matches
none. -/
theorem decoderAgreesWithOpcodeTable : Obligations.DecoderAgreesWithOpcodeTable := decode_mnemonic_eq_table

/-- Settles O5: two rows that take one word agree where both masks look, and only the exact rows in SYS do. -/
theorem opcodeRowsAreDisjoint : Obligations.OpcodeRowsAreDisjoint := table_rows_disjoint

/-- Settles O6: the decoder gives up on the words of rule R85 only, and none of those is an instruction's encoding. -/
theorem unrecognizedWordsExactly : Obligations.UnrecognizedWordsExactly := by
  intro op
  refine ⟨⟨fun h => ?_, decode_of_unrecognizedWord op⟩, fun op' h => ?_⟩
  · exact (unrecognizedWord_of_decode op op h).2
  · exact (unrecognizedWord_of_decode op op' h).1

/-- Settles O11: a machine with no recorded fault has a next state, and a recorded one is answered. -/
theorem stepStopsOnlyWhenFaulted : Obligations.StepStopsOnlyWhenFaulted := by
  intro s
  by_cases hs : ∃ f, s.run = .faulted f
  · obtain ⟨g, hg⟩ := hs
    simp [step_faulted s g hg, hg]
  · obtain ⟨t, ht⟩ := step_next_of_not_faulted s (not_exists.1 hs)
    exact ⟨fun f => by simp [ht, not_exists.1 hs f], fun r => by simp [ht]⟩

/-- Settles O53: an instruction that stops writes RUN alone, and an effect moves pc on by 2, or by 4 in a skip. -/
theorem pcAdvancesByRule : Obligations.PcAdvancesByRule := by
  intro i s t hret hjp hjpV0 hcall h
  rcases exec_next_cases i s t h with ⟨r, hr, rfl⟩ | ⟨-, rfl⟩
  · exact .inr (.inr ⟨rfl, stopOf_cases i s r hr⟩)
  · rcases effectOf_pc_cases i s hret hjp hjpV0 hcall with hpc | ⟨hpc, hskip⟩
    · exact .inl ⟨effectOf_run i s, hpc⟩
    · exact .inr (.inl ⟨effectOf_run i s, hpc, hskip⟩)

/-- Settles O1: ten closed decodings. -/
theorem specWordsDecode : Obligations.SpecWordsDecode := by
  unfold Obligations.SpecWordsDecode
  decide

/-- Settles O8: the fetch passes its check, and the word at pc is passed over. -/
theorem unrecognizedIsNoOp : Obligations.UnrecognizedIsNoOp := by
  intro s op hr hpc hd
  rw [step_fetched s hr ((fetchFault_none_iff s).2 hpc), fetchWord_eq, hd]
  rfl

end Sys2Proof.Proofs
end

section
/-!
DXYN as a whole: what one draw does to each cell and to VF, and that a second draw meets the same sprite (rules R100 to
R103).
-/

namespace Sys2Proof.Machine

variable (s u : State) (x y : Reg) (n : Nibble)

/-- What DXYN draws: the `n` bytes at I over the framebuffer, from the wrapped origin in VX and VY (rule R101). -/
def State.drwCanvas (s : State) (x y : Reg) (n : Nibble) : Canvas :=
  drawSprite s.screen ((s.getV x).toNat % screenW) ((s.getV y).toNat % screenH) (s.readRun s.i.toNat n.toNat)

theorem effectOf_drw : effectOf (.drw x y n) s =
    ((s.setScreen (s.drwCanvas x y n).screen).setV flagReg (flagByte (s.drwCanvas x y n).collision)).advance := rfl

theorem effectOf_drw_screen : (effectOf (.drw x y n) s).screen = (s.drwCanvas x y n).screen := rfl

theorem effectOf_drw_getV_flagReg :
    (effectOf (.drw x y n) s).getV flagReg = flagByte (s.drwCanvas x y n).collision := by
  rw [effectOf_drw, State.advance_getV, State.getV_setV, if_pos rfl]

theorem stopOf_drw_inside (h : n.toNat = 0 ∨ s.i.toNat + n.toNat ≤ memSize) : stopOf (.drw x y n) s = none :=
  Option.map_eq_none_iff.2 ((readFault_none_iff _ _).2 h)

theorem stopOf_drw_outside (hn : 0 < n.toNat) (h : memSize < s.i.toNat + n.toNat) :
    stopOf (.drw x y n) s = some (.faulted (.memoryOutOfRange (max s.i.toNat memSize))) :=
  congrArg (Option.map Run.faulted) (readFault_of_out _ _ hn h)

/-- A sprite has at most 15 rows, fewer than the framebuffer, so it covers no cell twice. -/
theorem drwPixels_nodup (x0 y0 : Nat) : (spritePixels x0 y0 (s.readRun s.i.toNat n.toNat)).Nodup :=
  spritePixels_nodup _ _ _ (by rw [readRun_length]; omega)

/-- Each cell is XORed with the sprite bit that falls on it (rules R101, R103). -/
theorem cellAt_drwCanvas (px py : Nat) (hx : px < 64) (hy : py < 32) :
    cellAt (s.drwCanvas x y n).screen px py = Bool.xor (cellAt s.screen px py) (s.spriteBit x y n px py) := by
  rw [spriteBit_eq s x y n px py hx hy]
  exact (foldl_plot _ (spritePixels_inside _ _ _) (drwPixels_nodup s n _ _) _).1 px py

/-- The collision bit is set exactly when the sprite falls on a lit cell (rule R102). -/
theorem drwCanvas_collision_iff : (s.drwCanvas x y n).collision = true ↔
    ∃ px py, px < 64 ∧ py < 32 ∧ cellAt s.screen px py = true ∧ s.spriteBit x y n px py = true := by
  refine (foldl_plot _ (spritePixels_inside _ _ _) (drwPixels_nodup s n _ _) _).2.trans ?_
  constructor
  · rintro (h | ⟨⟨px, py⟩, hp, hc⟩)
    · cases h
    · obtain ⟨hx, hy⟩ := spritePixels_inside _ _ _ _ hp
      exact ⟨px, py, hx, hy, hc, by rwa [spriteBit_eq s x y n px py hx hy, decide_eq_true_eq]⟩
  · rintro ⟨px, py, hx, hy, hc, hb⟩
    rw [spriteBit_eq s x y n px py hx hy, decide_eq_true_eq] at hb
    exact .inr ⟨(px, py), hb, hc⟩

/-- The sprite bit depends on memory, I and the origin alone. -/
theorem spriteBit_congr (hm : u.mem = s.mem) (hc : u.config = s.config) (hi : u.i = s.i) (hx : u.getV x = s.getV x)
    (hy : u.getV y = s.getV y) : u.spriteBit x y n = s.spriteBit x y n := by
  funext px py
  simp only [State.spriteBit, State.readByte, hm, hc, hi, hx, hy]

theorem flagByte_eq_one_iff (b : Bool) : flagByte b = 1 ↔ b = true := by
  cases b <;> decide

theorem flagByte_eq_zero_iff (b : Bool) : flagByte b = 0 ↔ b = false := by
  cases b <;> decide

/-- Every cell of the cleared framebuffer is unlit (rule R100). -/
theorem cellAt_blank (px py : Nat) (hy : py < 32) : cellAt (Vector.replicate 32 0) px py = false := by
  simp [cellAt, hy]

end Sys2Proof.Machine
end

section
/-!
The display family: clearing the framebuffer, drawing a sprite, taking it off again, and a sprite outside memory.
-/

namespace Sys2Proof.Proofs

open Sys2Proof.Machine

/-- Settles O13, by what the sprite unit does to one cell and to the collision bit. -/
theorem drwXorsSpriteAndReportsCollision : Obligations.DrwXorsSpriteAndReportsCollision := by
  intro s x y n h
  have hv := effectOf_drw_getV_flagReg s x y n
  have hiff := drwCanvas_collision_iff s x y n
  refine ⟨_, exec_of_no_stop _ s (stopOf_drw_inside s x y n h), cellAt_drwCanvas s x y n, ?_, fun r hr => ?_, rfl⟩
  · cases hc : (s.drwCanvas x y n).collision with
    | true => exact .inl ⟨hv.trans ((flagByte_eq_one_iff _).2 hc), hiff.1 hc⟩
    | false =>
      refine .inr ⟨hv.trans ((flagByte_eq_zero_iff _).2 hc), fun px py hx hy hb => ?_⟩
      by_contra hl
      exact absurd (hiff.2 ⟨px, py, hx, hy, Bool.eq_true_of_not_eq_false hl, hb⟩) (by simp [hc])
  · exact effectOf_getV (.drw x y n) s r (by simpa [writtenRegs] using hr)

/-- Settles O15: the second draw XORs the same sprite bits, which cancel, and the cells it finds lit under the sprite
are those that the first had found unlit. -/
theorem drawTwiceRestoresScreen : Obligations.DrawTwiceRestoresScreen := by
  intro s t u x y n h ht hscreen hmem hconfig hi hx hy
  cases (exec_of_no_stop _ s (stopOf_drw_inside s x y n h)).symm.trans ht
  have hui : u.i = s.i := hi
  have hbit : u.spriteBit x y n = s.spriteBit x y n := spriteBit_congr s u x y n hmem hconfig hi hx hy
  have hcell (px py : Nat) (hpx : px < 64) (hpy : py < 32) :
      cellAt u.screen px py = Bool.xor (cellAt s.screen px py) (s.spriteBit x y n px py) := by
    rw [hscreen]
    exact cellAt_drwCanvas s x y n px py hpx hpy
  have hv := effectOf_drw_getV_flagReg u x y n
  refine ⟨_, exec_of_no_stop _ u (stopOf_drw_inside u x y n (hui ▸ h)), ?_, ?_, ?_⟩
  · refine screen_ext _ _ fun px py hpx hpy => ?_
    rw [effectOf_drw_screen, cellAt_drwCanvas u x y n px py hpx hpy, hcell px py hpx hpy, hbit, Bool.xor_assoc,
      Bool.xor_self, Bool.xor_false]
  · rw [hv, flagByte_eq_one_iff, drwCanvas_collision_iff, hbit]
    refine exists_congr fun px => exists_congr fun py => and_congr_right fun hpx => and_congr_right fun hpy => ?_
    rw [hcell px py hpx hpy]
    cases s.spriteBit x y n px py <;> simp
  · rw [hv, flagByte_eq_zero_iff, flagByte_eq_one_iff]
    exact (Bool.eq_false_or_eq_true _).symm

/-- Settles O12: the framebuffer that CLS writes is blank, and its word is decoded by computation. -/
theorem clsClearsEveryCell : Obligations.ClsClearsEveryCell :=
  ⟨rfl, fun _ => ⟨_, rfl, fun px py _ hy => cellAt_blank px py hy, rfl⟩⟩

/-- Settles O14: the check of the sprite's bytes comes first, and its fault is the only write. -/
theorem drwOutsideMemoryFaults : Obligations.DrwOutsideMemoryFaults :=
  fun s x y n hn h => exec_of_stop _ s _ (stopOf_drw_outside s x y n hn h)

end Sys2Proof.Proofs
end

section
/-!
The end of a run (rule R249): what a state at an end is, which step of a schedule reaches it first, and that no
transaction moves a machine away from it. Beside it, the stack bounds and the targets of the control flow (rules R110,
R112, R117).
-/

namespace Sys2Proof.Machine

variable (s e : State)

/-! ### States at an end -/

/-- A running machine that fetches a jump to the address it stands at (rules R111, R249). -/
def State.AtSelfJump (s : State) : Prop :=
  s.run = .running ∧ s.pc.toNat + 1 < 4096 ∧ ∃ nnn, decode s.fetchWord = .instr (.jp nnn) ∧ nnn.toNat = s.pc.toNat

theorem runEnded_of_faulted (f : Fault) (h : s.run = .faulted f) : s.runEnded = true := by
  rw [State.runEnded, h]

theorem runEnded_of_awaiting (x : Reg) (h : s.run = .awaitingKey x) : s.runEnded = false := by
  rw [State.runEnded, h]

/-- A pc inside memory fits the twelve bits of a jump's operand, so that the jump to itself names it exactly. -/
theorem runEnded_iff_of_running (h : s.run = .running) : s.runEnded = true ↔ s.AtSelfJump := by
  simp only [State.runEnded, State.AtSelfJump, h, Bool.and_eq_true, decide_eq_true_eq, fetchFault_none_iff, true_and]
  constructor
  · rintro ⟨⟨hpc, hd⟩, hlt⟩
    exact ⟨hpc, _, hd, (BitVec.toNat_setWidth _ _).trans (Nat.mod_eq_of_lt hlt)⟩
  · rintro ⟨hpc, nnn, hd, hnnn⟩
    have hself : nnn = s.pc.setWidth 12 := BitVec.eq_of_toNat_eq (by rw [BitVec.toNat_setWidth]; omega)
    exact ⟨⟨hpc, hself ▸ hd⟩, by simp only [memSize]; omega⟩

/-- A state can be an end exactly with a recorded fault or at a jump to itself. -/
theorem runEnded_iff : s.runEnded = true ↔ (∃ f, s.run = .faulted f) ∨ s.AtSelfJump := by
  cases hr : s.run with
  | faulted f => simp [runEnded_of_faulted s f hr]
  | awaitingKey x => simp [runEnded_of_awaiting s x hr, State.AtSelfJump, hr]
  | running => simp [runEnded_iff_of_running s hr]

/-! ### The first step that reaches an end -/

/-- One transaction reaches an end exactly when it is a step to one. -/
theorem endOfRun_singleton (c : HostCmd) :
    endOfRun [c] s = some e ↔ ∃ rand, c = .step rand ∧ e = hostStep rand s ∧ e.runEnded = true := by
  cases c with
  | setKeys k => simp
  | tick => simp
  | step rand =>
    cases h : (hostStep rand s).runEnded with
    | true =>
      rw [endOfRun_step_ended s rand [] h]
      constructor
      · rintro ⟨⟩
        exact ⟨rand, rfl, rfl, h⟩
      · rintro ⟨_, ⟨⟩, rfl, -⟩
        rfl
    | false =>
      rw [endOfRun_step_going s rand [] h]
      constructor
      · rintro ⟨⟩
      · rintro ⟨_, ⟨⟩, rfl, hend⟩
        cases h.symm.trans hend

/-- The end of a schedule is its first transaction's, where that has one; else that of the rest. -/
theorem endOfRun_cons (c : HostCmd) (cs : List HostCmd) :
    endOfRun (c :: cs) s = (endOfRun [c] s).or (endOfRun cs (transact c s)) :=
  endOfRun_append s [c] cs

/-- The end is the state after a step that reaches one, before which the schedule reached none. -/
theorem endOfRun_some_iff (cmds : List HostCmd) : endOfRun cmds s = some e ↔
    ∃ pre rand post, cmds = pre ++ .step rand :: post ∧ e = runSchedule (pre ++ [.step rand]) s ∧
      e.runEnded = true ∧ endOfRun pre s = none := by
  constructor
  · intro h
    induction cmds generalizing s with
    | nil => cases h
    | cons c cs ih =>
      rw [endOfRun_cons] at h
      cases hc : endOfRun [c] s with
      | some e' =>
        rw [hc, Option.some_or] at h
        cases h
        obtain ⟨rand, rfl, rfl, hend⟩ := (endOfRun_singleton s e c).1 hc
        exact ⟨[], rand, cs, rfl, rfl, hend, rfl⟩
      | none =>
        rw [hc, Option.none_or] at h
        obtain ⟨pre, rand, post, rfl, he, hend, hpre⟩ := ih (transact c s) h
        exact ⟨c :: pre, rand, post, rfl, he, hend, by rw [endOfRun_cons, hc, Option.none_or, hpre]⟩
  · rintro ⟨pre, rand, post, rfl, he, hend, hpre⟩
    rw [runSchedule_append] at he
    subst he
    rw [endOfRun_append, hpre, Option.none_or]
    exact endOfRun_step_ended _ rand post hend

/-- A schedule has no end exactly when none of its steps reaches one. -/
theorem endOfRun_none_iff (cmds : List HostCmd) : endOfRun cmds s = none ↔
    ∀ pre rand post, cmds = pre ++ .step rand :: post → (runSchedule (pre ++ [.step rand]) s).runEnded = false := by
  constructor
  · rintro h pre rand post rfl
    rw [endOfRun_append, Option.or_eq_none_iff] at h
    rw [runSchedule_append]
    refine Bool.eq_false_of_not_eq_true fun hend => ?_
    cases (endOfRun_step_ended _ rand post hend).symm.trans h.2
  · intro h
    refine Option.eq_none_iff_forall_not_mem.2 fun e he => ?_
    obtain ⟨pre, rand, post, hc, rfl, hend, -⟩ := (endOfRun_some_iff s e cmds).1 he
    exact Bool.false_ne_true ((h pre rand post hc).symm.trans hend)

/-! ### An end is final -/

/-- A jump to itself takes a machine to the state it is in (rule R111). -/
theorem step_of_atSelfJump (h : s.AtSelfJump) : step s = .next s := by
  obtain ⟨hr, hpc, nnn, hd, hnnn⟩ := h
  have hself : addrOf nnn = s.pc := BitVec.eq_of_toNat_eq ((addrOf_toNat nnn).trans hnnn)
  rw [step_fetched s hr ((fetchFault_none_iff s).2 hpc), hd]
  change Host.Outcome.next (s.jump (addrOf nnn)) = .next s
  rw [hself]
  rfl

/-- A step from an end, whatever byte the host drives with it, changes nothing (rules R111, R206). -/
theorem hostStep_of_runEnded (rand : Byte) (h : s.runEnded = true) : hostStep rand s = s := by
  rcases (runEnded_iff s).1 h with ⟨f, hr⟩ | hj
  · rw [hostStep, step_faulted { s with draws := [rand] } f hr]
    rfl
  · rw [hostStep, step_of_atSelfJump { s with draws := [rand] } hj]
    rfl

/-- `s` is at an end and is `e` but for what the host drives: the timers and the key latches. -/
def EndedLike (e s : State) : Prop :=
  s.runEnded = true ∧ s = { e with dt := s.dt, st := s.st, keys := s.keys }

theorem endedLike_transact (c : HostCmd) (h : EndedLike e s) : EndedLike e (transact c s) := by
  obtain ⟨hend, hlike⟩ := h
  cases c with
  | setKeys k => exact ⟨(runEnded_setKeys s k).trans hend, by rw [hlike]; rfl⟩
  | tick => exact ⟨(runEnded_tick s).trans hend, by rw [hlike]; rfl⟩
  | step rand =>
    have hstep : transact (.step rand) s = s := hostStep_of_runEnded s rand hend
    rw [hstep]
    exact ⟨hend, hlike⟩

/-- No schedule moves a machine away from its end. -/
theorem endedLike_runSchedule (cmds : List HostCmd) (h : e.runEnded = true) : EndedLike e (runSchedule cmds e) :=
  runSchedule_keeps e (EndedLike e) cmds (fun c _ u hu => endedLike_transact u e c hu) ⟨h, rfl⟩

/-- A machine whose step leads back to its state stays there, at any number of steps. -/
theorem coreRun_of_step_self (M : Host.Core) (u : M.State) (h : M.step u = .next u) (n : Nat) :
    M.run n u = .next u := by
  induction n with
  | zero => rfl
  | succ n ih =>
    rw [Host.Core.run, h]
    exact ih

/-! ### The stack bounds and the targets of the control flow -/

theorem stopOf_ret (h : 0 < s.sp) : stopOf .ret s = none :=
  if_neg (List.ne_nil_of_length_pos h)

theorem stopOf_call (nnn : Addr12) (h : s.sp < stackDepth) : stopOf (.call nnn) s = none :=
  if_neg (Nat.not_le_of_lt h)

/-- NNN + V0 is below 2^13, so that the sum of BNNN never wraps (rule R117). -/
theorem jpV0_target_toNat (nnn : Addr12) (b : Byte) :
    (addrOf nnn + b.setWidth 16).toNat = nnn.toNat + b.toNat := by
  have := nnn.isLt
  have := b.isLt
  rw [BitVec.toNat_add, addrOf_toNat, BitVec.toNat_setWidth]
  omega

end Sys2Proof.Machine
end

section
/-!
The control-flow family: the end of a run, RET and CALL, the jumps, the register and immediate skips, and SYS.
-/

namespace Sys2Proof.Proofs

open Sys2Proof.Machine

/-- Settles O23: the end is the state after the first step to a fault or a jump to itself, and from there each
transaction but a tick and `set_keys` changes nothing. -/
theorem selfJumpIsFinal : Obligations.SelfJumpIsFinal := by
  refine ⟨fun s e cmds => ?_, fun s e cmds next h => ?_, fun s hr h n => ?_⟩
  · rw [endOfRun_some_iff]
    simp only [endOfRun_none_iff, runEnded_iff e]
    rfl
  · obtain ⟨-, -, -, -, -, hend, -⟩ := (endOfRun_some_iff s e cmds).1 h
    exact (endedLike_runSchedule e next hend).2
  · exact coreRun_of_step_self core s (step_of_atSelfJump s ((runEnded_iff_of_running s hr).1 h)) n

/-- Settles O16: the frame that RET takes off is the top one, and its word is decoded by computation. -/
theorem retPopsReturnAddress : Obligations.RetPopsReturnAddress := by
  refine ⟨by decide, fun s hsp => ?_⟩
  obtain ⟨a, rest, hs⟩ := List.exists_cons_of_length_pos hsp
  have ht : effectOf .ret s = (s.popTo rest).jump a := by simp [effectOf, hs]
  refine ⟨_, (exec_of_no_stop _ s (stopOf_ret s hsp)).trans (congrArg _ ht), stackEntry_top s a rest hs, ?_,
    fun k hk => (stackEntry_below s a rest hs k hk).symm, rfl⟩
  simp [State.sp, hs]

/-- Settles O17: CALL puts the address after itself on top of the frames there are. -/
theorem callPushesReturnAddress : Obligations.CallPushesReturnAddress := by
  intro s nnn hsp
  have ht : (effectOf (.call nnn) s).stack = (s.pc + 2) :: s.stack := rfl
  exact ⟨_, exec_of_no_stop _ s (stopOf_call s nnn hsp), stackEntry_top _ _ _ ht, rfl,
    stackEntry_below _ _ _ ht, addrOf_toNat nnn, rfl⟩

/-- Settles O18: the check of the stack comes first, and its fault is the only write. -/
theorem stackBoundsFault : Obligations.StackBoundsFault :=
  ⟨fun s h => exec_of_stop .ret s _ (if_pos (List.eq_nil_of_length_eq_zero h)),
    fun s nnn h => exec_of_stop (.call nnn) s _ (if_pos h.ge)⟩

/-- Settles O20: the targets are the 12-bit immediate, and its sum with V0, which 16 bits hold. -/
theorem jumpsSetPc : Obligations.JumpsSetPc :=
  fun s nnn => ⟨⟨_, rfl, addrOf_toNat nnn, rfl⟩, ⟨_, rfl, jpV0_target_toNat nnn (s.getV 0), rfl⟩⟩

/-- Settles O21: each skip writes pc alone, by its condition. -/
theorem skipsAddFourOrTwo : Obligations.SkipsAddFourOrTwo := by
  intro s x y nn
  refine ⟨?_, ?_, ?_, ?_⟩
  · simp [exec, execSeImm, skipIf_eq]
  · simp [exec, execSneImm, skipIf_eq]
  · simp [exec, execSeReg, skipIf_eq]
  · simp [exec, execSneReg, skipIf_eq]

/-- Settles O22: SYS has no effect but to advance, and the decoder takes the two exact words first. -/
theorem sysOnlyAdvances : Obligations.SysOnlyAdvances := fun _ nnn => ⟨rfl, decode_sys nnn⟩

end Sys2Proof.Proofs
end

section
/-!
The register-immediate family's rules: a register reads back what was written to it, a draw is the byte lined up or the
free value, and a host step on a fetched instruction executes it with the step's byte lined up (rules R20, R35, R222).
-/

namespace Sys2Proof.Machine

variable (s t : State)

theorem getV_setV_same (x : Reg) (b : Byte) : (s.setV x b).getV x = b := by
  rw [State.getV_setV, if_pos rfl]

theorem randByte_of_lined_up (b : Byte) (rest : List Byte) (h : s.draws = b :: rest) : s.randByte = b := by
  rw [State.randByte, h]

theorem randByte_of_none_lined_up (h : s.draws = []) : s.randByte = Config.entropy s.drawn := by
  rw [State.randByte, h]

/-- The bytes lined up are no part of what is fetched, and the host puts its own back after the step. -/
theorem hostStep_of_exec (i : Instr) (rand : Byte) (hr : s.run = .running) (hf : s.fetchFault = none)
    (hd : decode s.fetchWord = .instr i) (h : exec i { s with draws := [rand] } = .next t) :
    hostStep rand s = { t with draws := s.draws } := by
  have hstep : step { s with draws := [rand] } = .next t := by
    rw [step_fetched { s with draws := [rand] } hr hf,
      show decode (State.fetchWord { s with draws := [rand] }) = .instr i from hd]
    exact h
  rw [hostStep, hstep]
  rfl

end Sys2Proof.Machine
end

section
/-!
The register-immediate family: the immediate load, the immediate addition, and the masked draw.
-/

namespace Sys2Proof.Proofs

open Sys2Proof.Machine

/-- Settles O24: the word is the instruction's encoding, and one register is written. -/
theorem ldImmLoadsImmediate : Obligations.LdImmLoadsImmediate :=
  fun s x nn => ⟨decode_encode (.ldImm x nn) rfl, _, rfl, getV_setV_same s x nn,
    fun r hr => getV_setV_of_ne s x r nn hr, rfl⟩

/-- Settles O25: a byte's addition is modulo 256, and one register is written. -/
theorem addImmWrapsWithoutFlag : Obligations.AddImmWrapsWithoutFlag := by
  intro s x nn
  have hsum := getV_setV_same s x (s.getV x + nn)
  exact ⟨decode_encode (.addImm x nn) rfl, _, rfl, (congrArg BitVec.toNat hsum).trans (BitVec.toNat_add _ _),
    fun r hr => getV_setV_of_ne s x r _ hr, rfl⟩

/-- Settles O26: the draw is the first byte lined up, or the free value; in a host step it is the step's byte, which is
alone lined up there. -/
theorem rndStoresMaskedDraw : Obligations.RndStoresMaskedDraw := by
  refine fun s x nn => ⟨?_, fun rand hr hpc hd => ?_⟩
  · refine ⟨_, s.randByte, rfl, getV_setV_same s.consumeDraw x _, fun b rest h => ?_, fun h => ?_, rfl,
      fun q hq => getV_setV_of_ne s.consumeDraw x q _ hq, rfl⟩
    · exact ⟨randByte_of_lined_up s b rest h, congrArg List.tail h⟩
    · exact ⟨randByte_of_none_lined_up s h, congrArg List.tail h⟩
  · have hstep := hostStep_of_exec s _ (.rnd x nn) rand hr ((fetchFault_none_iff s).2 hpc) hd rfl
    exact ⟨_, hstep, getV_setV_same s x _, fun q hq => getV_setV_of_ne s x q _ hq, rfl⟩

end Sys2Proof.Proofs
end

section
/-!
The register-register family's rules: what a result with its flag leaves in the registers, a flag's value in VF, and the
two outcomes an instruction of the family has, one register written or a result and then its flag (rules R141 to R150).
-/

namespace Sys2Proof.Machine

variable (s : State)

/-! ### Values (rules R141, R146 to R150) -/

theorem toNat_flagByte (f : Bool) : (flagByte f).toNat = f.toNat := by cases f <;> rfl

theorem toNat_flagByte_decide (p : Prop) [Decidable p] : (flagByte (decide p)).toNat = if p then 1 else 0 := by
  rw [toNat_flagByte, Bool.toNat, Bool.cond_decide]

theorem toNat_flagByte_carryOut (a b : Byte) :
    (flagByte (carryOut a b)).toNat = if 256 ≤ a.toNat + b.toNat then 1 else 0 :=
  toNat_flagByte_decide _

theorem toNat_flagByte_noBorrow (a b : Byte) :
    (flagByte (noBorrow a b)).toNat = if b.toNat ≤ a.toNat then 1 else 0 :=
  toNat_flagByte_decide _

theorem toNat_flagByte_getLsbD (b : Byte) (k : Nat) : (flagByte (b.getLsbD k)).toNat = b.toNat / 2 ^ k % 2 := by
  rw [toNat_flagByte]
  exact Nat.toNat_testBit _ _

theorem toNat_byte_sub (a b : Byte) : (a - b).toNat = (a.toNat + 256 - b.toNat) % 256 := by
  rw [BitVec.toNat_sub', Nat.add_sub_assoc b.isLt.le a.toNat]

theorem toNat_byte_shiftRight_one (b : Byte) : (b >>> 1).toNat = b.toNat / 2 := by
  rw [BitVec.toNat_ushiftRight, Nat.shiftRight_eq_div_pow, pow_one]

theorem toNat_byte_shiftLeft_one (b : Byte) : (b <<< 1).toNat = b.toNat * 2 % 256 := by
  rw [BitVec.toNat_shiftLeft, Nat.shiftLeft_eq, pow_one]

/-- The operand of a shift is the only byte that agrees with VX or VY as `SHIFT_SOURCE` asks. -/
theorem eq_shiftOperand (x y : Reg) (src : Byte) (hx : s.config.shiftSource = .vx → src = s.getV x)
    (hy : s.config.shiftSource = .vy → src = s.getV y) : src = s.shiftOperand x y := by
  unfold State.shiftOperand
  split
  · exact hx ‹_›
  · exact hy ‹_›

/-! ### Outcomes (rules R141 to R150) -/

theorem getV_setResultAndFlag_flag (x : Reg) (b : Byte) (f : Bool) :
    (s.setResultAndFlag x b f).getV flagReg = flagByte f := by
  rw [State.getV_setResultAndFlag, if_pos rfl]

theorem getV_setResultAndFlag_result (x : Reg) (b : Byte) (f : Bool) (hx : x ≠ flagReg) :
    (s.setResultAndFlag x b f).getV x = b := by
  rw [State.getV_setResultAndFlag, if_neg hx, if_pos rfl]

/-- An instruction that writes one register leaves the value there and every other register as it was. -/
theorem completes_of_setV (i : Instr) (x : Reg) (b : Byte) (h : exec i s = .next (s.setV x b).advance) :
    ∃ t, exec i s = .next t ∧ t.getV x = b ∧ (∀ r, r ≠ x → t.getV r = s.getV r) ∧
      t = { s with v := t.v, pc := s.pc + 2 } :=
  ⟨_, h, getV_setV_same s x b, fun r hr => getV_setV_of_ne s x r b hr, rfl⟩

/-- An instruction that writes a result and its flag leaves the flag in VF, the result in VX unless that is VF, and
every other register as it was. -/
theorem completes_of_setResultAndFlag (i : Instr) (x : Reg) (b : Byte) (f : Bool) (result flag : Nat)
    (h : exec i s = .next (s.setResultAndFlag x b f).advance) (hb : b.toNat = result)
    (hf : (flagByte f).toNat = flag) :
    ∃ t, exec i s = .next t ∧ (x ≠ 0xF → (t.getV x).toNat = result) ∧ (t.getV 0xF).toNat = flag ∧
      (∀ r, r ≠ x → r ≠ 0xF → t.getV r = s.getV r) ∧ t = { s with v := t.v, pc := s.pc + 2 } :=
  ⟨_, h, fun hx => (congrArg BitVec.toNat (getV_setResultAndFlag_result s x b f hx)).trans hb,
    (congrArg BitVec.toNat (getV_setResultAndFlag_flag s x b f)).trans hf,
    fun r hr hF => getV_setResultAndFlag_of_ne s x r b f hr hF, rfl⟩

end Sys2Proof.Machine
end

section
/-!
The register-register family: the logic operations, and the operations with a flag.
-/

namespace Sys2Proof.Proofs

open Sys2Proof.Machine

/-- Settles O28: each of the four writes VX alone, and its value is the operation's bit by bit. -/
theorem logicOpsLeaveVf : Obligations.LogicOpsLeaveVf := by
  intro s x y
  refine ⟨completes_of_setV s (.ldReg x y) x _ rfl, ?_, ?_, ?_⟩
  · obtain ⟨t, hexec, hv, hframe⟩ := completes_of_setV s (.orReg x y) x _ rfl
    exact ⟨t, hexec, fun k => hv ▸ BitVec.getLsbD_or, hframe⟩
  · obtain ⟨t, hexec, hv, hframe⟩ := completes_of_setV s (.andReg x y) x _ rfl
    exact ⟨t, hexec, fun k => hv ▸ BitVec.getLsbD_and, hframe⟩
  · obtain ⟨t, hexec, hv, hframe⟩ := completes_of_setV s (.xorReg x y) x _ rfl
    exact ⟨t, hexec, fun k => hv ▸ BitVec.getLsbD_xor, hframe⟩

/-- Settles O29: a byte's addition is modulo 256, and its flag is the carry. -/
theorem addRegSumAndCarry : Obligations.AddRegSumAndCarry :=
  fun s x y => completes_of_setResultAndFlag s (.addReg x y) x _ _ _ _ rfl (BitVec.toNat_add _ _)
    (toNat_flagByte_carryOut _ _)

/-- Settles O30: a byte's subtraction is modulo 256, and its flag is no-borrow, the two operands in either order. -/
theorem subtractionsAndNoBorrow : Obligations.SubtractionsAndNoBorrow :=
  fun s x y =>
    ⟨completes_of_setResultAndFlag s (.sub x y) x _ _ _ _ rfl (toNat_byte_sub _ _) (toNat_flagByte_noBorrow _ _),
      completes_of_setResultAndFlag s (.subn x y) x _ _ _ _ rfl (toNat_byte_sub _ _) (toNat_flagByte_noBorrow _ _)⟩

/-- Settles O31: a shift by one bit halves its operand or doubles it modulo 256, and its flag is the operand's bit 0 or
bit 7. -/
theorem shiftsByOneBit : Obligations.ShiftsByOneBit := by
  intro s x y src hx hy
  obtain rfl := eq_shiftOperand s x y src hx hy
  have hbit0 := toNat_flagByte_getLsbD (s.shiftOperand x y) 0
  have hbit7 := toNat_flagByte_getLsbD (s.shiftOperand x y) 7
  have hlt := (s.shiftOperand x y).isLt
  exact ⟨completes_of_setResultAndFlag s (.shr x y) x _ _ _ _ rfl (toNat_byte_shiftRight_one _) (by omega),
    completes_of_setResultAndFlag s (.shl x y) x _ _ _ _ rfl (toNat_byte_shiftLeft_one _) (by omega)⟩

end Sys2Proof.Proofs
end

section
/-!
The rules of the index and memory family: the three ways I is computed, the two checks of the register moves, and that
a byte is read from memory and the parameters alone (rules R33, R55, R161, R162, R164, R165).
-/

namespace Sys2Proof.Machine

variable (s t : State)

/-! ### Values of I (rules R161, R162) -/

theorem toNat_add_setWidth_byte (a : Word) (b : Byte) : (a + b.setWidth 16).toNat = (a.toNat + b.toNat) % 65536 := by
  rw [BitVec.toNat_add, BitVec.toNat_setWidth_of_le (by decide)]

/-- A legal font starts below 0x200, so that no byte carries its glyph address past 16 bits. -/
theorem toNat_glyphAddress (c : Config) (v : Byte) (hc : c.wf) :
    (glyphAddress c v).toNat = c.fontBase + 5 * v.toNat := by
  obtain ⟨hbase, -⟩ := hc
  have hv := v.isLt
  simp only [fontBytes, progBase] at hbase
  exact Nat.mod_eq_of_lt (by simp only [glyphBytes]; omega)

/-! ### The register moves (rules R164, R165) -/

/-- A register load whose last byte lies in memory passes its check. -/
theorem stopOf_ldVMem_inside (x : Reg) (h : s.i.toNat + x.val < memSize) : stopOf (.ldVMem x) s = none :=
  Option.map_eq_none_iff.2 ((readFault_none_iff _ _).2 (.inr h))

theorem getV_loadRegs_of_le (a : Nat) (x r : Reg) (h : r ≤ x) : (s.loadRegs a x).getV r = s.readByte (a + r.val) := by
  rw [State.getV_loadRegs, if_pos h]

theorem getV_loadRegs_of_lt (a : Nat) (x r : Reg) (h : x < r) : (s.loadRegs a x).getV r = s.getV r := by
  rw [State.getV_loadRegs, if_neg (Fin.not_le.2 h)]

/-- What a byte reads as depends on memory and the parameters only. -/
theorem readByte_congr (hm : s.mem = t.mem) (hc : s.config = t.config) (a : Nat) : s.readByte a = t.readByte a := by
  simp only [State.readByte, hm, hc]

end Sys2Proof.Machine
end

section
/-!
The index and memory family: the three ways to set I, the register load, and a dump that a load undoes.
-/

namespace Sys2Proof.Proofs

open Sys2Proof.Machine

/-- Settles O36: the load passes its check, and its effect replaces the registers up to VX. -/
theorem ldVMemLoadsRegisters : Obligations.LdVMemLoadsRegisters :=
  fun s x h => ⟨_, exec_of_no_stop (.ldVMem x) s (stopOf_ldVMem_inside s x h),
    fun r hr => getV_loadRegs_of_le s _ x r hr, fun r hr => getV_loadRegs_of_lt s _ x r hr, rfl⟩

/-- Settles O39: the dump leaves I and puts each register at its address, and the load reads the same addresses of the
same memory; that the dump could store there puts them in the load's range too. -/
theorem dumpThenLoadRestores : Obligations.DumpThenLoadRestores := by
  intro s t u x hwf hst hdump hmem hcfg hi
  obtain ⟨t', ht', hstored, -, hframe⟩ := ldMemVDumpsRegisters s x hwf hst
  obtain rfl : t' = t := Host.Outcome.next.inj (ht'.symm.trans hdump)
  have hI : u.i = s.i := by rw [hi, hframe]
  obtain ⟨hinside, -⟩ := hst
  obtain ⟨w, hload, hloaded, -⟩ := ldVMemLoadsRegisters u x (by rwa [hI])
  refine ⟨w, hload, fun r hr => ?_⟩
  calc w.getV r = u.readByte (u.i.toNat + r.val) := hloaded r hr
    _ = t'.readByte (s.i.toNat + r.val) := by rw [hI, readByte_congr u t' hmem hcfg]
    _ = s.getV r := hstored r hr

/-- Settles O32: the word is the instruction's encoding, and a 12-bit address is its own 16-bit value. -/
theorem ldISetsAddress : Obligations.LdISetsAddress := by
  intro s nnn
  have hbound : (addrOf nnn).toNat ≤ 0xFFF := addrOf_toNat nnn ▸ Nat.le_of_lt_succ nnn.isLt
  exact ⟨decode_encode (.ldI nnn) rfl, _, rfl, addrOf_toNat nnn, hbound, rfl⟩

/-- Settles O33: the sum is modulo 2^16, and the glyph address fits its 16 bits. -/
theorem indexArithmetic : Obligations.IndexArithmetic :=
  fun s x => ⟨⟨_, rfl, toNat_add_setWidth_byte s.i (s.getV x), rfl⟩,
    ⟨_, rfl, toNat_glyphAddress s.config (s.getV x), rfl⟩⟩

end Sys2Proof.Proofs
end

section
/-!
The key and timer family's rules: whether a check stops EX9E and EXA1, what FX0A and a waiting machine's step do with a
pressed key and without one, and that a timer at 0 stays there (rules R180 to R187, R223).
-/

namespace Sys2Proof.Machine

variable (s : State)

/-! ### The key skips (rules R180 to R182, R204) -/

theorem skipIf_not_eq (c : Bool) : s.skipIf (!c) = { s with pc := s.pc + (if c then 2 else 4) } := by
  cases c <;> rfl

/-- Both key skips pass their check when VX names a latch, or the policy masks it. -/
theorem stopOf_keySkip_latch (x : Reg) (h : (s.getV x).toNat ≤ 15 ∨ s.config.keyIndexPolicy = .mask) :
    stopOf (.skp x) s = none ∧ stopOf (.sknp x) s = none :=
  ⟨if_pos h, if_pos h⟩

/-- Under the fault policy an index above 15 stops both key skips. -/
theorem stopOf_keySkip_above (x : Reg) (hp : s.config.keyIndexPolicy = .fault) (hv : 15 < (s.getV x).toNat) :
    stopOf (.skp x) s = some (.faulted (.keyOutOfRange (s.getV x))) ∧
      stopOf (.sknp x) s = some (.faulted (.keyOutOfRange (s.getV x))) := by
  have hno : ¬((s.getV x).toNat ≤ 15 ∨ s.config.keyIndexPolicy = .mask) := by
    rw [hp]
    exact not_or.2 ⟨Nat.not_le_of_lt hv, KeyIndexPolicy.noConfusion⟩
  exact ⟨if_neg hno, if_neg hno⟩

/-! ### The key of a wait (rules R184, R185) -/

/-- An index of a latch fits the byte that FX0A stores. -/
theorem getV_takeKey_toNat (x : Reg) (k : Nat) (hk : k < 16) : ((s.takeKey x k).getV x).toNat = k := by
  rw [State.getV_takeKey, if_pos rfl, BitVec.toNat_ofNat]
  exact Nat.mod_eq_of_lt (by omega)

theorem getV_takeKey_of_ne (x r : Reg) (k : Nat) (h : r ≠ x) : (s.takeKey x k).getV r = s.getV r := by
  rw [State.getV_takeKey, if_neg h]

theorem exec_ldVK_of_key (x : Reg) (k : Nat) (h : s.lowestKey = some k) :
    exec (.ldVK x) s = .next (s.takeKey x k) := by
  simp only [exec, execLdVK, h]

theorem awaitingKeyStep_of_key (x : Reg) (k : Nat) (h : s.lowestKey = some k) :
    awaitingKeyStep x s = (s.takeKey x k).setRun .running := by
  rw [awaitingKeyStep, h]

theorem awaitingKeyStep_of_no_key (x : Reg) (h : s.lowestKey = none) : awaitingKeyStep x s = s := by
  rw [awaitingKeyStep, h]

/-! ### The timers (rules R186, R223) -/

theorem decay_zero : decay 0 = 0 := if_pos rfl

end Sys2Proof.Machine
end

section
/-!
The key and timer family: the wait for a key, FX0A, the key skips, and the moves between registers and timers.
-/

namespace Sys2Proof.Proofs

open Sys2Proof.Machine

/-- Settles O46: with no key pressed a waiting machine's step leads back to its own state; with one, the step takes the
lowest. -/
theorem waitPersistsUntilKey : Obligations.WaitPersistsUntilKey := by
  refine fun s x hr => ⟨fun hnone n => ?_, fun keys k hk hp hlow => ?_⟩
  · have hidle : awaitingKeyStep x s = s := awaitingKeyStep_of_no_key s x ((lowestKey_none_iff s).2 hnone)
    exact coreRun_of_step_self core s ((step_awaiting s x hr).trans (congrArg _ hidle)) n
  · have hkey : (setKeys keys s).lowestKey = some k := (lowestKey_some_iff (setKeys keys s) k).2 ⟨hk, hp, hlow⟩
    have hstep := step_awaiting (setKeys keys s) x hr
    rw [awaitingKeyStep_of_key _ x k hkey] at hstep
    exact ⟨_, hstep, getV_takeKey_toNat _ x k hk, fun r hne => getV_takeKey_of_ne (setKeys keys s) x r k hne, rfl⟩

/-- Settles O44: the pressed key below which none is pressed is the lowest, and FX0A stores it. -/
theorem keyWaitTakesLowestPressed : Obligations.KeyWaitTakesLowestPressed := by
  intro s x k hk hp hlow
  have hkey : s.lowestKey = some k := (lowestKey_some_iff s k).2 ⟨hk, hp, hlow⟩
  exact ⟨_, exec_ldVK_of_key s x k hkey, getV_takeKey_toNat s x k hk, fun r hr => getV_takeKey_of_ne s x r k hr, rfl⟩

/-- Settles O45: what stops FX0A with no key pressed is its wait. -/
theorem keyWaitBeginsWithoutKey : Obligations.KeyWaitBeginsWithoutKey :=
  fun s x h => exec_of_stop (.ldVK x) s _ (if_pos ((lowestKey_none_iff s).2 h))

/-- Settles O40: nothing stops either skip, and each writes pc alone, by the latch that VX names modulo 16. -/
theorem keySkipsTestLatch : Obligations.KeySkipsTestLatch := by
  intro s x h
  obtain ⟨hskp, hsknp⟩ := stopOf_keySkip_latch s x h
  exact ⟨(exec_of_no_stop _ s hskp).trans (congrArg _ (skipIf_eq s _)),
    (exec_of_no_stop _ s hsknp).trans (congrArg _ (skipIf_not_eq s _))⟩

/-- Settles O41: the check of VX stops either skip, and its fault is the only write. -/
theorem keySkipsFaultAboveFifteen : Obligations.KeySkipsFaultAboveFifteen := by
  intro s x hp hv
  obtain ⟨hskp, hsknp⟩ := stopOf_keySkip_above s x hp hv
  exact ⟨exec_of_stop _ s _ hskp, exec_of_stop _ s _ hsknp⟩

/-- Settles O42: the word is the instruction's encoding, and one register is written. -/
theorem ldVDtReadsDelayTimer : Obligations.LdVDtReadsDelayTimer :=
  fun s x => ⟨decode_encode (.ldVDt x) rfl, completes_of_setV s (.ldVDt x) x s.dt rfl⟩

/-- Settles O43: both words are the instructions' encodings, and a tick leaves a timer at 0 where it is. -/
theorem timersAreSetFromRegister : Obligations.TimersAreSetFromRegister :=
  fun _ x => ⟨decode_encode (.ldDtV x) rfl, rfl, fun h => (congrArg decay h).trans decay_zero,
    decode_encode (.ldStV x) rfl, rfl⟩

end Sys2Proof.Proofs
end

section
/-!
The rules of the exceptions family: what the host reads of a faulted machine, what the entropy byte of a step can reach,
the ticks of a schedule, and the load that makes no machine (rules R206, R208, R213, R222, R223).
-/

namespace Sys2Proof.Machine

variable (i : Instr) (s t : State)

theorem result_of_faulted (f : Fault) (h : s.run = .faulted f) : s.result = .fault f := by
  rw [State.result, h]

/-! ### The entropy byte (rules R35, R222) -/

/-- An instruction but CXNN does the same with other bytes lined up, and leaves them lined up. -/
theorem exec_with_draws (ds : List Byte) (hr : ∀ x nn, i ≠ .rnd x nn) (h : exec i s = .next t) :
    exec i { s with draws := ds } = .next { t with draws := ds } := by
  obtain ⟨hstop, heffect⟩ : stopOf i { s with draws := ds } = stopOf i s ∧
      effectOf i { s with draws := ds } = { effectOf i s with draws := ds } := by
    cases i with
    | rnd x nn => exact absurd rfl (hr x nn)
    | _ => exact ⟨rfl, rfl⟩
  rw [exec_eq, hstop, heffect]
  rcases exec_next_cases i s t h with ⟨r, hs, rfl⟩ | ⟨hn, rfl⟩
  · rw [hs]; rfl
  · rw [hn]; rfl

/-- A waiting machine's step takes no byte. -/
theorem awaitingKeyStep_with_draws (x : Reg) (ds : List Byte) :
    awaitingKeyStep x { s with draws := ds } = { awaitingKeyStep x s with draws := ds } := by
  cases hk : s.lowestKey with
  | some k => rw [awaitingKeyStep_of_key s x k hk, awaitingKeyStep_of_key { s with draws := ds } x k hk]; rfl
  | none => rw [awaitingKeyStep_of_no_key s x hk, awaitingKeyStep_of_no_key { s with draws := ds } x hk]

/-- The machine fetches no CXNN: it is not running, or the word at pc is none. -/
def State.FetchesNoRnd (s : State) : Prop :=
  s.run = .running → ∀ x nn, decode s.fetchWord ≠ .instr (.rnd x nn)

/-- A step that runs no CXNN does the same with other bytes lined up, and leaves them lined up. -/
theorem step_with_draws (ds : List Byte) (hno : s.FetchesNoRnd) (h : step s = .next t) :
    step { s with draws := ds } = .next { t with draws := ds } := by
  rcases step_cases s with
    ⟨f, -, hs⟩ | ⟨x, hr, hs⟩ | ⟨f, hr, hf, hs⟩ | ⟨i, hr, hf, hd, hs⟩ | ⟨op, hr, hf, hd, hs⟩
  · cases hs.symm.trans h
  · cases hs.symm.trans h
    exact (step_awaiting { s with draws := ds } x hr).trans (congrArg _ (awaitingKeyStep_with_draws s x ds))
  · cases hs.symm.trans h
    exact step_fetchFault { s with draws := ds } hr f hf
  · have hne : ∀ x nn, i ≠ .rnd x nn := by
      rintro x nn rfl
      exact hno hr x nn hd
    refine (step_fetched { s with draws := ds } hr hf).trans ?_
    rw [show decode (State.fetchWord { s with draws := ds }) = .instr i from hd]
    exact exec_with_draws i s t ds hne (hs.symm.trans h)
  · cases hs.symm.trans h
    refine (step_fetched { s with draws := ds } hr hf).trans ?_
    rw [show decode (State.fetchWord { s with draws := ds }) = .unrecognized op from hd]
    rfl

/-- A host step that runs no CXNN is the step without the host's byte. -/
theorem hostStep_of_fetchesNoRnd (rand : Byte) (hno : s.FetchesNoRnd) :
    hostStep rand s = { stateAfter s (step s) with draws := s.draws } := by
  by_cases hf : ∃ f, s.run = .faulted f
  · obtain ⟨f, hr⟩ := hf
    rw [hostStep_of_runEnded s rand (runEnded_of_faulted s f hr), step_faulted s f hr]
    rfl
  · obtain ⟨t, hs⟩ := step_next_of_not_faulted s (not_exists.1 hf)
    rw [hostStep, step_with_draws s t [rand] hno hs, hs]
    rfl

/-! ### Ticks (rule R223) -/

/-- A tick takes one off a timer, with the clamp of the natural numbers. -/
theorem toNat_decay (b : Byte) : (decay b).toNat = b.toNat - 1 := by
  by_cases h : b = 0
  · rw [h, decay_zero]
    rfl
  · rw [decay, if_neg h]
    bv_omega

/-- What a run of ticks leaves in the timers, and that it writes nothing else. -/
theorem runSchedule_ticks (n : Nat) :
    (runSchedule (List.replicate n .tick) s).dt.toNat = s.dt.toNat - n ∧
    (runSchedule (List.replicate n .tick) s).st.toNat = s.st.toNat - n ∧
    runSchedule (List.replicate n .tick) s = { s with
      dt := (runSchedule (List.replicate n .tick) s).dt, st := (runSchedule (List.replicate n .tick) s).st } := by
  induction n generalizing s with
  | zero => exact ⟨rfl, rfl, rfl⟩
  | succ n ih =>
    obtain ⟨hdt, hst, hframe⟩ := ih (tick s)
    rw [tick_dt, toNat_decay, Nat.sub_sub, Nat.add_comm 1 n] at hdt
    rw [tick_st, toNat_decay, Nat.sub_sub, Nat.add_comm 1 n] at hst
    exact ⟨hdt, hst, hframe⟩

/-! ### A load that makes no machine (rule R208) -/

/-- A load is turned away, with the ROM's length, exactly when the ROM does not fit above `PROG_BASE`. -/
theorem load_error_iff (c : Config) (rom : List Byte) (e : LoadError) :
    load c rom = .error e ↔ memSize < rom.length + progBase ∧ e = .romTooLarge rom.length := by
  unfold load
  split
  case isTrue h => simp only [Except.error.injEq, h, true_and, eq_comm]
  case isFalse h => simp only [reduceCtorEq, h, false_and]

end Sys2Proof.Machine
end

section
/-!
The exceptions family: a fault is terminal, the entropy byte reaches CXNN alone, ticks, and the load that is turned
away.
-/

namespace Sys2Proof.Proofs

open Sys2Proof.Machine

/-- Settles O55: a recorded fault is an end of a run, and no schedule moves a machine away from its end but in what the
host drives. -/
theorem faultIsTerminal : Obligations.FaultIsTerminal := by
  intro cmds s f hr
  obtain ⟨-, hlike⟩ := endedLike_runSchedule s cmds (runEnded_of_faulted s f hr)
  have hrun : (runSchedule cmds s).run = .faulted f := (congrArg State.run hlike).trans hr
  exact ⟨step_faulted s f hr, hrun, result_of_faulted _ f hrun, hlike⟩

/-- Settles O27: either host step is the step without its byte. -/
theorem entropyReachesOnlyRnd : Obligations.EntropyReachesOnlyRnd :=
  fun s p q hno => (hostStep_of_fetchesNoRnd s p hno).trans (hostStep_of_fetchesNoRnd s q hno).symm

/-- Settles O47, by induction on the number of ticks. -/
theorem ticksDecayBothTimers : Obligations.TicksDecayBothTimers :=
  fun s n => ⟨_, rfl, runSchedule_ticks s n⟩

/-- Settles O57: 3584 bytes are what memory holds from `PROG_BASE` on. -/
theorem loadRejectsLongRom : Obligations.LoadRejectsLongRom := load_error_iff

end Sys2Proof.Proofs
end
